-- ==== Sys2Proof/Word.lean ====
section
/-! DEFINITION. The word types of the register window: bytes, 7-bit offsets, 13-byte buffer images. -/

namespace Sys2Proof

/-- One register of the window, or one buffer slot (spec 20_memory.md R62; 00_scope.md R14). -/
abbrev Byte := BitVec 8

/-- An address of the register window, 0 to 127; its width is `P_WINDOW_BITS` (spec 20_memory.md R60; 00_scope.md R12). -/
abbrev Offset := BitVec 7

/-- The 13 buffer bytes 0..12 of one frame (spec 00_scope.md R13; 30_encoding.md R91). -/
abbrev Image := Vector Byte 13

end Sys2Proof
end

