-- ==== Sys2Proof/Config.lean ====
section
/-! DEFINITION. What an implementation fixes (the parameters of spec 00_scope.md R12) and the values nobody fixes
(the controller's answers, and what a register with no specified content reads as). -/

namespace Sys2Proof.Config

/-- The parameters of spec 00_scope.md R12 that are numbers, each with the default the spec adopts. A model may
instantiate other values (spec 92_eei_decisions.md, the list of OPEN parameters), so they stand in State and a
claim about every state holds for all of them (log 5). -/
structure Params where
  /-- `P_PASSIVE_LIMIT`: an error counter at or above it is error-passive. -/
  passiveLimit : Nat := 128
  /-- `P_BUSOFF_TXERR`: TXERR at or above it is bus-off, beside SR.BS; 256 leaves SR.BS alone (spec 93 I12). -/
  busOffTxerr : Nat := 255
  /-- `P_RMC_MASK`: the bits of the message-count register that hold the count. -/
  rmcMask : BitVec 8 := 0x1F
  deriving DecidableEq, Repr

/-- How the controller answers one access (spec 00_scope.md R12 `rd_oracle`; 20_memory.md R69).
A write carries no data back, so `byte` and `held` both answer a write with `ok`. -/
inductive Answer where
  /-- A read returns this byte; a write is accepted. -/
  | byte (v : Byte)
  /-- A read returns what the controller's register map holds there; a write is accepted (log 4). -/
  | held
  /-- The controller does not respond. -/
  | noresp
  deriving DecidableEq, Repr, Inhabited

/-- FREE VALUE: the controller's answer to the access with this number, wherever `State.answers` fixes none
(spec 00_scope.md R12, 92_eei_decisions.md D36: unconstrained). It has no body a proof could see (log 3). -/
opaque rdOracle : Nat → Answer

/-- FREE VALUE: the byte that the access with the first number finds at the offset of the second, where the spec
does not fix what is there (spec 10_state.md R40, R42, R58; 93_implementation_defined.md I1, I3, I9). Second numbers
above the window, 128 + k, stand for the ignored bits of byte `k` of a self-received message (log 13). -/
opaque freeByte : Nat → Nat → Byte

end Sys2Proof.Config
end

