-- ==== Sys2Proof/Syntax.lean ====
section
/-! DEFINITION. Frames, operand lines, and the instructions: one constructor of `Instr` per row of
spec/opcode_table.json (15 upstream commands, 7 CMR command bytes, 2 buffer formats). -/

namespace Sys2Proof

/-- Frame format: 11-bit or 29-bit identifiers (spec 40_frame_codec.md R140; 00_scope.md R18 SFF and EFF). -/
inductive FrameFormat where
  | std
  | ext
  deriving DecidableEq, Repr

/-- A Frame (spec 40_frame_codec.md R140). The identifier is an unsigned number, so that a frame whose identifier
does not fit its format can be written down and refused (spec R141, vectors EN12 and EN13; log 6). -/
structure Frame where
  fmt  : FrameFormat
  id   : Nat
  rtr  : Bool
  dlc  : BitVec 4
  data : List Byte
  deriving DecidableEq, Repr

/-- The operand lines beside the command word (spec 00_scope.md R9; 30_encoding.md R91). Every command finds all of
them; a command uses those its opcode names. -/
structure OperandLines where
  frameIn  : Frame
  modeIn   : Byte
  imageIn  : Image
  byteIn   : Byte
  clsSr    : Byte
  clsEwlr  : Byte
  clsRxerr : Byte
  clsTxerr : Byte
  indexIn  : Byte
  deriving DecidableEq, Repr

/-- The frame whose fields are all zero. -/
def Frame.zero : Frame := { fmt := .std, id := 0, rtr := false, dlc := 0, data := [] }

/-- Operand lines that are all zero. -/
def OperandLines.zero : OperandLines :=
  { frameIn := Frame.zero, modeIn := 0, imageIn := Vector.replicate 13 0, byteIn := 0,
    clsSr := 0, clsEwlr := 0, clsRxerr := 0, clsTxerr := 0, indexIn := 0 }

/-- The instructions of the three ports (spec 00_scope.md R2). -/
inductive Instr where
  /-- Upstream commands (spec 30_encoding.md R92). -/
  | transmit (f : Frame)
  | transmitSs (f : Frame)
  | abort
  | tryReceive
  | handleInterrupt
  | setMode (modeIn : Byte)
  | ackEvents
  | readStatus
  | reset
  | encode (f : Frame)
  | decode (img : Image)
  | decodeEcc (b : Byte)
  | decodeAlc (b : Byte)
  | classify (sr ewlr rxerr txerr : Byte)
  | txReadback (k : Byte)
  /-- Command bytes of the controller's CMR (spec 30_encoding.md R100). -/
  | cmrTr
  | cmrSrr
  | cmrTrAt
  | cmrSrrAt
  | cmrAt
  | cmrRrb
  | cmrCdo
  /-- Buffer images, headed by their frame-info byte: its RTR, unassigned and DLC bits, then buffer bytes 1..12
  (spec 30_encoding.md R110 to R112). -/
  | bufSff (rtr : Bool) (unused : BitVec 2) (dlc : BitVec 4) (rest : Vector Byte 12)
  | bufEff (rtr : Bool) (unused : BitVec 2) (dlc : BitVec 4) (rest : Vector Byte 12)
  deriving DecidableEq, Repr

end Sys2Proof
end

