-- ==== Sys2Proof/Machine/State.lean ====
section
/-! DEFINITION. The machine's state as plain data: the CFC's own record (spec 10_state.md R20), the command port, the
controller behind the register window (spec 10_state.md Part B), and the inputs that the agents have lined up. -/

namespace Sys2Proof.Machine

/-! ### Values of the CFC -/

/-- The nine flags of ControllerStatus (spec 10_state.md R23). -/
structure ControllerStatus where
  initialized : Bool
  msgWaiting  : Bool
  busOn       : Bool
  txBusy      : Bool
  errWarning  : Bool
  dataOverrun : Bool
  errPassive  : Bool
  arbLost     : Bool
  busError    : Bool
  deriving DecidableEq, Repr

/-- Bus-state classification (spec 10_state.md R20: ACTIVE = 0, WARNING = 1, PASSIVE = 2, BUS_OFF = 3). -/
inductive BusClass where
  | active
  | warning
  | passive
  | busOff
  deriving DecidableEq, Repr

/-- `mode.op` (spec 10_state.md R20, R28). -/
inductive ModeOp where
  | reset
  | operating
  deriving DecidableEq, Repr

/-- The CFC's view of the controller's mode (spec 10_state.md R28). -/
structure ModeView where
  op  : ModeOp
  lom : Bool
  stm : Bool
  sm  : Bool
  deriving DecidableEq, Repr

/-- One entry of the transaction history (spec 10_state.md R38), the four events of 00_scope.md R10 among them.
`statusChange` carries the 12-bit word of R26 (the flags are its bits 8:0) and the class. -/
inductive LogEntry where
  | sel
  | desel
  | rd (off : Offset) (v : Byte)
  | wr (off : Offset) (v : Byte)
  | noResp (off : Offset)
  | pulse
  | statusChange (word : BitVec 12) (cls : BusClass)
  | frameReceived (f : Frame)
  | txDone (completed : Bool)
  | wakeUp
  deriving DecidableEq, Repr

/-- Result codes (spec 60_exceptions.md R300), in the order of their numbers 0 to 9. The last two are never raised
by the CFC. -/
inductive Result where
  | ok
  | transmitBusy
  | deviceNotResponding
  | busOff
  | notOperating
  | invalidFrame
  | illegalCommand
  | invalidOperand
  | configurationError
  | modeTransitionTimeout
  deriving DecidableEq, Repr

/-- ERRC, the error code of ECC bits 7:6 (spec 10_state.md R49; 43_status_decoder.md R230). -/
inductive ErrorCode where
  | bit
  | form
  | stuff
  | other
  deriving DecidableEq, Repr

/-- DIR, the direction of ECC bit 5 (spec 10_state.md R49; 43_status_decoder.md R230). -/
inductive Direction where
  | tx
  | rx
  deriving DecidableEq, Repr

/-- The frame segments of ECC bits 4:0 (spec 43_status_decoder.md R231). -/
inductive Segment where
  | id28to21
  | startOfFrame
  | srtrBit
  | ideBit
  | id20to18
  | id17to13
  | crcSequence
  | reservedBit0
  | dataField
  | dataLengthCode
  | rtrBit
  | reservedBit1
  | id4to0
  | id12to5
  | activeErrorFlag
  | intermission
  | tolerateDominantBits
  | passiveErrorFlag
  | errorDelimiter
  | crcDelimiter
  | ackSlot
  | endOfFrame
  | ackDelimiter
  | overloadFlag
  /-- A segment code the table does not list. -/
  | reserved (s : BitVec 5)
  deriving DecidableEq, Repr

/-- The record EccDecode returns (spec 43_status_decoder.md R230). -/
structure EccRecord where
  errc : ErrorCode
  dir  : Direction
  seg  : Segment
  deriving DecidableEq, Repr

/-- Where arbitration was lost (spec 43_status_decoder.md R235). -/
inductive AlcField where
  /-- Bit ID.n of the 29-bit identifier numbering. -/
  | idBit (n : Nat)
  /-- The RTR bit of an SFF frame or the SRTR bit of an EFF frame. -/
  | rtrOrSrtr
  | ide
  /-- The RTR bit of an EFF frame. -/
  | rtr
  deriving DecidableEq, Repr

/-- The record AlcDecode returns (spec 43_status_decoder.md R235). -/
structure AlcRecord where
  bitno : BitVec 5
  field : AlcField
  deriving DecidableEq, Repr

/-- The outputs of a command (spec 00_scope.md R9; 30_encoding.md R92). -/
inductive Outputs where
  /-- The result code alone. -/
  | none
  /-- `frame_out`. -/
  | frame (f : Option Frame)
  /-- `image_out`: 13 slots, each a byte or unwritten (`none`). -/
  | image (slots : Vector (Option Byte) 13)
  /-- `status_out` with the mode byte and both captures (spec 44_block_control.md R284). -/
  | status (word : BitVec 12) (modeByte : Byte) (eccCap alcCap : Option Byte)
  /-- `ecc_out`. -/
  | ecc (r : EccRecord)
  /-- `alc_out`. -/
  | alc (r : AlcRecord)
  /-- `cls_out`. -/
  | cls (c : BusClass)
  /-- `byte_out`. -/
  | byte (v : Byte)
  deriving DecidableEq, Repr

/-- What a command returns: its result code and its outputs (spec 00_scope.md R9). -/
structure Response where
  result : Result
  outs   : Outputs
  deriving DecidableEq, Repr

/-! ### The controller, an environment agent (spec 10_state.md Part B) -/

/-- Byte cells by address, in one canonical form (`Memory.wf` in Machine/Memory.lean): strictly rising addresses, and
no cell equal to what an unlisted address reads as. -/
abbrev Memory := List Host.Cell

/-- A transmission in progress (spec 10_state.md R32 (a)) with what asked for it (spec R42; 30_encoding.md R101). -/
structure TxRequest where
  /-- Asked for by SRR: the frame also goes to the local receive path. -/
  selfReception : Bool
  /-- Asked for with AT in the same byte: not retried. -/
  singleShot : Bool
  /-- An AT came afterwards; advisory (spec 41_transmit.md R177). -/
  abortRequested : Bool
  deriving DecidableEq, Repr

/-- The controller's state. -/
structure Controller where
  /-- The stored registers, the receive FIFO RAM and the transmit buffer (cells 96-108, which the TX shadow shows),
  by window address; 16-23 are the acceptance filter (spec 10_state.md R40). -/
  regs : Memory
  /-- How many messages the receive FIFO holds (spec 10_state.md R32 (b), R55); their bytes stand in the FIFO RAM,
  cells 32-95, the oldest at the address in RBSA, cell 30 (spec R56; log 27). -/
  fifoCount : Nat
  /-- The FIFO address past the youngest message; without meaning while the FIFO is empty (log 27). -/
  fifoEnd : BitVec 6
  /-- The transmission in progress (spec 10_state.md R32 (a)). -/
  inFlight : Option TxRequest
  /-- Bytes written to CMR that the controller has not acted on yet, oldest first (spec 20_memory.md R66 (a), R71). -/
  latch : List Byte
  /-- Whether ECC captures the next bus error (spec 10_state.md R49). -/
  eccArmed : Bool
  /-- Whether ALC captures the next arbitration loss (spec 10_state.md R48). -/
  alcArmed : Bool
  /-- A reset pulse was driven and the controller has not reset yet (spec 00_scope.md R11). -/
  resetRequested : Bool
  deriving DecidableEq, Repr

/-- The controller after its hardware reset (spec 70_reset_and_hazards.md R341; logs 8, 12, 16, 19, 24, 27). -/
def Controller.reset : Controller :=
  { regs := [], fifoCount := 0, fifoEnd := 0, inFlight := none, latch := [], eccArmed := true, alcArmed := true,
    resetRequested := false }

/-- What happens at the controller on its own, between two operations (spec 00_scope.md R7 (3); 10_state.md R32, R43,
R44; 70_reset_and_hazards.md R352; log 17). -/
inductive EnvEvent where
  /-- A stored register but IR takes a value: the controller changed it, or the surrounding software wrote it. -/
  | register (off : Offset) (v : Byte)
  /-- A message arrives: it enters the receive FIFO, or is lost because the FIFO is full. -/
  | message (img : Image)
  /-- The transmission in progress ends. -/
  | transmitEnd (completed : Bool)
  /-- A bus error, with what ECC would capture of it. -/
  | busErrorCapture (ecc : Byte)
  /-- An arbitration loss, with what ALC would capture of it. -/
  | arbLostCapture (alc : Byte)
  /-- New error counters and bus status. -/
  | errorCounters (rxerr txerr : Byte) (busOff : Bool)
  /-- Bus activity; it matters while the controller sleeps. -/
  | wakeUp
  /-- The controller goes through a hardware reset. -/
  | hardwareReset
  deriving DecidableEq, Repr

/-! ### What the agents do next -/

/-- One input of the machine (spec 00_scope.md R7, R8; log 1, 2). -/
inductive Input where
  /-- A command on the upstream port, from the requester or the platform. -/
  | command (word : Byte) (lines : OperandLines)
  /-- A buffer image laid before the frame decoder (log 9). -/
  | image (info : Byte) (rest : Vector Byte 12)
  /-- The controller acts on what it was asked: a reset pulse, else the oldest byte of its CMR latch
  (spec 20_memory.md R71; log 8, 16). -/
  | controller
  /-- The platform looks at the interrupt line and issues HANDLE_INTERRUPT if it is asserted (spec R310). -/
  | platform
  /-- Something happens at the controller. -/
  | environment (e : EnvEvent)
  deriving DecidableEq, Repr

/-- The whole machine. The first seven fields are the record of spec 10_state.md R20 (the nine flags together in
`status`); the others are the command port, the controller, and the model's own (log 1, 3, 5, 7). -/
structure State where
  status : ControllerStatus
  busClass : BusClass
  mode : ModeView
  eccCap : Option Byte
  alcCap : Option Byte
  devFault : Bool
  log : List LogEntry
  /-- Result and outputs of the last command; none before the first. -/
  response : Option Response
  /-- What the agents do next, oldest first. -/
  inputs : List Input
  /-- The controller behind the register window. -/
  controller : Controller
  /-- The controller's answers to the first accesses; beyond the list `Config.rdOracle` answers. -/
  answers : List Config.Answer
  /-- How many register accesses have been performed. -/
  accesses : Nat
  /-- The parameters of spec 00_scope.md R12. -/
  params : Config.Params
  deriving DecidableEq, Repr

/-- All nine flags 0 (spec 10_state.md R20, R340). -/
def ControllerStatus.reset : ControllerStatus :=
  { initialized := false, msgWaiting := false, busOn := false, txBusy := false, errWarning := false,
    dataOverrun := false, errPassive := false, arbLost := false, busError := false }

/-- `{RESET, 0, 0, 0}` (spec 10_state.md R20, R340). -/
def ModeView.reset : ModeView := { op := .reset, lom := false, stm := false, sm := false }

/-- The machine at construction (spec 70_reset_and_hazards.md R340), the controller after its hardware reset (R341),
nothing lined up (log 1, 3, 7). -/
def State.reset : State :=
  { status := ControllerStatus.reset, busClass := .active, mode := ModeView.reset, eccCap := none, alcCap := none,
    devFault := false, log := [], response := none, inputs := [], controller := Controller.reset, answers := [],
    accesses := 0, params := {} }

/-! ### How a step can stop -/

/-- Faults: none. The CFC has no traps (spec 60_exceptions.md, opening; R315), and no offset of 7 bits lies outside
the window (spec 20_memory.md R60, R63). An operation that cannot proceed returns a result code, which is a next state. -/
inductive Fault where
  deriving DecidableEq, Repr

/-- Refusals. -/
inductive Refusal where
  /-- Raised by `exec` for an instruction that has no meaning yet; no arm answers it now. Safe: the model stops. -/
  | notModelled (mnemonic : String)
  /-- Raised by `step` when the controller's turn meets a byte in its CMR latch that is none of the seven commands:
  "a model of the controller must not be asked for one" (spec 30_encoding.md R102). The CFC never writes such a byte.
  Safe: the model stops (log 11). -/
  | cmrByteReserved (b : Byte)
  deriving DecidableEq, Repr

end Sys2Proof.Machine
end

