-- ==== Sys2Proof/Machine/Operands.lean ====
section
/-! DEFINITION. The operand forms: bits of a byte, bytes of an image, the checks on a frame, the MOD-layout byte. -/

namespace Sys2Proof.Machine

/-- Buffer byte `k` of an image (k = 0..12). -/
def imageByte (img : Image) (k : Nat) : Byte := (img[k]?).getD 0

/-- `WF_ID_STD` (spec 40_frame_codec.md R141). -/
def wfIdStd (f : Frame) : Bool := decide (f.fmt = .std → f.id < 2 ^ 11)

/-- `WF_ID_EXT` (spec 40_frame_codec.md R141). -/
def wfIdExt (f : Frame) : Bool := decide (f.fmt = .ext → f.id < 2 ^ 29)

/-- `WF_DLC` (spec 40_frame_codec.md R141). -/
def wfDlc (f : Frame) : Bool := decide (f.dlc.toNat ≤ 8)

/-- `WF_DATA` (spec 40_frame_codec.md R141). -/
def wfData (f : Frame) : Bool := decide (f.rtr = false → f.data.length = f.dlc.toNat)

/-- `WF_RTR` (spec 40_frame_codec.md R141). -/
def wfRtr (f : Frame) : Bool := decide (f.rtr = true → f.data.length = 0)

/-- `WF(f)`: all five checks (spec 40_frame_codec.md R141). -/
def frameWf (f : Frame) : Bool := wfIdStd f && wfIdExt f && wfDlc f && wfData f && wfRtr f

/-- Bits 7:5 of a MOD-layout byte are 000 (spec 30_encoding.md R91). -/
def modeInLegal (m : Byte) : Bool := m.extractLsb' 5 3 == 0#3

/-- The mode view of a MOD-layout byte; bit 3 (AFM) is ignored (spec 30_encoding.md R91; 44_block_control.md R280). -/
def modeOfByte (m : Byte) : ModeView :=
  { op := if m.getLsbD 0 then .reset else .operating,
    lom := m.getLsbD 1, stm := m.getLsbD 2, sm := m.getLsbD 4 }

/-- The MOD-layout byte of a mode view (spec 44_block_control.md R284, `mode_byte`). -/
def modeByte (m : ModeView) : Byte :=
  0#3 ++ BitVec.ofBool m.sm ++ 0#1 ++ BitVec.ofBool m.stm ++ BitVec.ofBool m.lom ++ BitVec.ofBool (m.op == .reset)

/-- The two bits of a class in the status word (spec 10_state.md R20, R26). -/
def classCode (c : BusClass) : BitVec 2 :=
  match c with
  | .active => 0#2
  | .warning => 1#2
  | .passive => 2#2
  | .busOff => 3#2

/-- The number of a result code (spec 60_exceptions.md R300). -/
def resultCode (r : Result) : Nat :=
  match r with
  | .ok => 0
  | .transmitBusy => 1
  | .deviceNotResponding => 2
  | .busOff => 3
  | .notOperating => 4
  | .invalidFrame => 5
  | .illegalCommand => 6
  | .invalidOperand => 7
  | .configurationError => 8
  | .modeTransitionTimeout => 9

/-- An index operand is 0..12 (spec 30_encoding.md R91). -/
def indexLegal (k : Byte) : Bool := decide (k.toNat ≤ 12)

end Sys2Proof.Machine
end

