-- ==== Sys2Proof/Machine/Codec.lean ====
section
/-! DEFINITION. The frame codec: `TxImage` and `DecodeWith` (spec 40_frame_codec.md). -/

namespace Sys2Proof.Machine

/-! ### Encoder -/

/-- The frame-info byte of a frame: FF, RTR, 00, DLC (spec 30_encoding.md R110; 40_frame_codec.md R143). -/
def frameInfo (f : Frame) : Byte :=
  BitVec.ofBool (f.fmt == .ext) ++ BitVec.ofBool f.rtr ++ 0#2 ++ f.dlc

/-- The identifier bytes of a frame, from buffer byte 1 on (spec 30_encoding.md R111, R112, R115; unassigned bits 0,
R134). -/
def idBytes (f : Frame) : List Byte :=
  let id := BitVec.ofNat 29 f.id
  match f.fmt with
  | .std => [id.extractLsb' 3 8, id.extractLsb' 0 3 ++ 0#5]
  | .ext => [id.extractLsb' 21 8, id.extractLsb' 13 8, id.extractLsb' 5 8, id.extractLsb' 0 5 ++ 0#3]

/-- The data bytes a frame puts into the buffer: none for a remote frame (spec 40_frame_codec.md R143). -/
def txData (f : Frame) : List Byte := if f.rtr then [] else f.data.take f.dlc.toNat

/-- Pairs the bytes with consecutive buffer indices from `k` on. -/
def indexFrom (k : Nat) : List Byte → List (Nat × Byte)
  | [] => []
  | b :: bs => (k, b) :: indexFrom (k + 1) bs

/-- `TxImage(f)`: the (buffer index, byte) pairs of a well-formed frame, in writing order. The data base is the first
index after the identifier: 3 for SFF, 5 for EFF (spec 40_frame_codec.md R143; 30_encoding.md R113). -/
def txImage (f : Frame) : List (Nat × Byte) := indexFrom 0 (frameInfo f :: (idBytes f ++ txData f))

/-- Slot `k` of `image_out`: the byte `TxImage` puts there, or unwritten (spec 40_frame_codec.md R145). -/
def imageSlot (f : Frame) (k : Nat) : Option Byte := (txImage f).lookup k

/-- `image_out` (spec 40_frame_codec.md R145). -/
def imageOut (f : Frame) : Vector (Option Byte) 13 :=
  #v[imageSlot f 0, imageSlot f 1, imageSlot f 2, imageSlot f 3, imageSlot f 4, imageSlot f 5, imageSlot f 6,
     imageSlot f 7, imageSlot f 8, imageSlot f 9, imageSlot f 10, imageSlot f 11, imageSlot f 12]

/-- The window offset of buffer byte `k` (spec 30_encoding.md §3: 16 + k). -/
def bufferOffset (k : Nat) : Offset := BitVec.ofNat 7 (16 + k)

/-! ### Decoder -/

/-- The clamp of a received DLC (spec 40_frame_codec.md R152). -/
def clampDlc (dlc : BitVec 4) : BitVec 4 := if 8 < dlc.toNat then 8#4 else dlc

/-- How many identifier bytes follow the frame-info byte (spec 30_encoding.md R114). -/
def idLength (info : Byte) : Nat := if info.getLsbD 7 then 4 else 2

/-- How many data bytes belong to the frame (spec 30_encoding.md R114). -/
def dataLength (info : Byte) : Nat := if info.getLsbD 6 then 0 else (clampDlc (info.extractLsb' 0 4)).toNat

/-- How many buffer bytes belong to the frame: 3..11 for SFF, 5..13 for EFF (spec 30_encoding.md R114). -/
def imageLength (info : Byte) : Nat := 1 + idLength info + dataLength info

/-- The buffer indices the decoder reads after byte 0, in its order: the identifier, then the data from the data base
on (spec 40_frame_codec.md R148). -/
def restIndices (info : Byte) : List Nat := List.range' 1 (idLength info + dataLength info)

/-- The place of the RTR copy in the last identifier byte of the receive buffer: bit 4 of buffer byte 2 for SFF, bit 2 of
buffer byte 4 for EFF (spec 30_encoding.md R111, R112). -/
def rtrCopyBit (info : Byte) : Byte := if info.getLsbD 7 then 0x04 else 0x10

/-- The bits of buffer byte `k` to which the receive layout gives no meaning: bits 5:4 of the frame-info byte, and those
below the RTR copy in the last identifier byte (spec 30_encoding.md R110 to R112). -/
def unassignedBits (info : Byte) (k : Nat) : Byte :=
  if k = 0 then 0x30 else if k = idLength info then rtrCopyBit info - 1 else 0x00

/-- Buffer byte `k` of a message as the receive buffer holds it: the image's byte, with the RTR copy of the layout in the
last identifier byte (spec 30_encoding.md R111, R112). -/
def receivedByte (img : Image) (k : Nat) : Byte :=
  let info := imageByte img 0
  if k = idLength info then
    imageByte img k &&& ~~~rtrCopyBit info ||| (if info.getLsbD 6 then rtrCopyBit info else 0x00)
  else imageByte img k

/-- The frame read from a frame-info byte and the bytes at `restIndices` (spec 40_frame_codec.md R148; 30_encoding.md
R115). Bits 5:4 of the info byte and the low bits of the last identifier byte are ignored (R134). -/
def frameOf (info : Byte) (rest : List Byte) : Frame :=
  let b1 := rest.getD 0 0
  let b2 := rest.getD 1 0
  let b3 := rest.getD 2 0
  let b4 := rest.getD 3 0
  if info.getLsbD 7 then
    { fmt := .ext, id := (b1 ++ b2 ++ b3 ++ b4.extractLsb' 3 5).toNat, rtr := info.getLsbD 6,
      dlc := clampDlc (info.extractLsb' 0 4), data := rest.drop 4 }
  else
    { fmt := .std, id := (b1 ++ b2.extractLsb' 5 3).toNat, rtr := info.getLsbD 6,
      dlc := clampDlc (info.extractLsb' 0 4), data := rest.drop 2 }

/-- `DecodeWith(read)` (spec 40_frame_codec.md R148). -/
def decodeWith (read : Nat → Byte) : Frame := frameOf (read 0) ((restIndices (read 0)).map read)

/-- The frame in an image (spec 40_frame_codec.md R150). -/
def decodeImage (img : Image) : Frame := decodeWith (imageByte img)

/-- The image whose byte 0 is a frame-info byte and whose bytes 1..12 are the rest. -/
def imageFrom (info : Byte) (rest : Vector Byte 12) (k : Nat) : Byte :=
  match k with
  | 0 => info
  | k + 1 => (rest[k]?).getD 0

end Sys2Proof.Machine
end

