-- ==== Sys2Proof/Machine/Memory.lean ====
section
/-! DEFINITION. The controller's register cells: what an unlisted cell reads as, reading and writing one cell, and
the canonical form. -/

namespace Sys2Proof.Machine

/-- What a cell that is not listed reads as: the register's value after the controller's hardware reset
(spec 70_reset_and_hazards.md R341). BTR0, BTR1, OCR, ACR0-3, AMR0-3 and CDR have no value in the spec and are 0x00
here (log 12, DESIGN CHOICE, unsafe). `none`: nothing is stored there, or (FIFO RAM and transmit buffer) nothing the
spec fixes until it is written; a read is then a free value (log 13). -/
def resetByte (a : Nat) : Option Byte :=
  match a with
  | 0 => some 0x01   -- MOD
  | 2 => some 0x3C   -- SR
  | 3 => some 0x00   -- IR
  | 4 => some 0x00   -- IER
  | 6 => some 0x00   -- BTR0
  | 7 => some 0x00   -- BTR1
  | 8 => some 0x00   -- OCR
  | 11 => some 0x00  -- ALC
  | 12 => some 0x00  -- ECC
  | 13 => some 0x60  -- EWLR
  | 14 => some 0x00  -- RXERR
  | 15 => some 0x00  -- TXERR
  | 30 => some 0x00  -- RBSA
  | 31 => some 0x00  -- CDR
  | _ => if 16 ≤ a ∧ a ≤ 23 then some 0x00 else none  -- ACR0-3, AMR0-3

/-- The byte a cell holds, if it holds one. -/
def Memory.read : Memory → Nat → Option Byte
  | [], a => resetByte a
  | (b, w) :: m, a => if a = b then some w else Memory.read m a

/-- `m` with the cell (a, v) in front, left out where an unlisted `a` reads as `v` anyway. -/
def Memory.consCell (a : Nat) (v : Byte) (m : Memory) : Memory :=
  if resetByte a = some v then m else (a, v) :: m

/-- Writing one cell, keeping the canonical form. -/
def Memory.write : Memory → Nat → Byte → Memory
  | [], a, v => Memory.consCell a v []
  | (b, w) :: m, a, v =>
    if a < b then Memory.consCell a v ((b, w) :: m)
    else if a = b then Memory.consCell a v m
    else (b, w) :: Memory.write m a v

/-- The canonical form: addresses inside the window, strictly rising, and no cell equal to what it would read as
unlisted. -/
def Memory.wf : Memory → Bool
  | [] => true
  | (a, v) :: m => decide (a < 128) && decide (resetByte a ≠ some v) && m.all (fun c => decide (a < c.1)) && Memory.wf m

end Sys2Proof.Machine
end

