-- ==== Sys2Proof/Machine/Controller.lean ====
section
/-! DEFINITION. The controller behind the register window, as far as the spec describes it: what an access finds and
does there, what the seven command bytes start, what happens there on its own, and its interrupt line. The CFC's own
rules never depend on it, because every answer may also be any byte or none (spec 00_scope.md R7, R12; log 4). -/

namespace Sys2Proof.Machine

/-! ### Register cells -/

/-- The byte in a register cell; `free` where the cell holds nothing the spec fixes. -/
def Controller.cell (c : Controller) (free : Byte) (a : Nat) : Byte := (c.regs.read a).getD free

/-- The bits of a register that exist as storage: MOD and ALC bits 7:5 read 0 (spec 10_state.md R41, R48).
DESIGN CHOICE (log 26): every other bit reads back as written, CDR bit 4 and RBSA bits 7:6 among them. R57 says only
"reserved" of CDR bit 4, and R56 describes only bits 5:0 of RBSA; unlike MOD, ALC and RMC, the spec does not say that
these bits read 0. -/
def registerMask (a : Nat) : Byte := if a = 0 ∨ a = 11 then 0x1F else 0xFF

/-- The controller with a register cell set. -/
def Controller.setCell (c : Controller) (a : Nat) (v : Byte) : Controller :=
  { c with regs := c.regs.write a (v &&& registerMask a) }

/-- Whether a window address has a cell of its own: every register with stored contents, the receive FIFO RAM and the
transmit buffer (spec 10_state.md R40, R53, R58). CMR keeps no value, RMC counts the FIFO's messages, and 5, 9, 10,
24-28 and 109-127 hold nothing the spec describes (log 22). -/
def isStored (a : Nat) : Bool :=
  (resetByte a).isSome || (decide (32 ≤ a) && decide (a ≤ 108))

/-- MOD.RM: the controller is in reset mode (spec 10_state.md R41). -/
def Controller.inResetMode (c : Controller) : Bool := (c.cell 0 0).getLsbD 0

/-! ### Status and count as the controller shows them -/

/-- A byte written to CMR that requests a transmission: TR (bit 0) or SRR (bit 4) (spec 10_state.md R42). -/
def requestsTransmission (b : Byte) : Bool := b.getLsbD 0 || b.getLsbD 4

/-- A transmission is pending: from the TR or SRR write until the controller ends it (spec 10_state.md R32 (a)). -/
def Controller.txPending (c : Controller) : Bool := c.inFlight.isSome || c.latch.any requestsTransmission

/-- MOD.SM: the controller sleeps (spec 10_state.md R41). -/
def Controller.isSleeping (c : Controller) : Bool := (c.cell 0 0).getLsbD 4

/-- SR.ES: at least one error counter has reached or passed EWLR (spec 10_state.md R43). -/
def Controller.errorStatus (c : Controller) : Bool :=
  decide ((c.cell 0 13).toNat ≤ (c.cell 0 14).toNat) || decide ((c.cell 0 13).toNat ≤ (c.cell 0 15).toNat)

/-- SR.BS: 1 is bus-off (spec 10_state.md R43). -/
def Controller.busStatus (c : Controller) : Bool := (c.cell 0 2).getLsbD 7

/-- SR.TCS: the last requested transmission completed successfully, so 0 while one is pending (spec 10_state.md R43). -/
def Controller.transmissionComplete (c : Controller) : Bool := (c.cell 0 2).getLsbD 3 && !c.txPending

/-- The controller takes part in the bus: "operating mode is required for bus participation", and bus-off "disconnects
from the bus" (spec 00_scope.md R18). -/
def Controller.onBus (c : Controller) : Bool := !c.inResetMode && !c.busStatus

/-- The controller can transmit: it takes part in the bus, is not listen-only (MOD.LOM), and does not sleep (spec
00_scope.md R18; 93_implementation_defined.md I24: "A listen-only node does not transmit, and a sleeping controller
cannot"). -/
def Controller.mayTransmit (c : Controller) : Bool := c.onBus && !(c.cell 0 0).getLsbD 1 && !c.isSleeping

/-- SR.TS: the controller is transmitting while a transmission is in progress and it can transmit (spec 10_state.md
R43). DESIGN CHOICE (log 14): the 1 that R341 gives it after the hardware reset, with none in progress, shows in reset
mode only. -/
def Controller.transmitting (c : Controller) : Bool :=
  (c.inFlight.isSome && c.mayTransmit) || (c.inResetMode && (c.cell 0 2).getLsbD 5)

/-- SR, from bit 7 down: BS, ES, TS, RS, TCS, TBS, DOS, RBS (spec 10_state.md R43). BS, RS and DOS are the cell's bits;
the others follow the counters, the transmission and the FIFO (log 14). -/
def Controller.statusRegister (c : Controller) : Byte :=
  BitVec.ofBool c.busStatus ++ BitVec.ofBool c.errorStatus ++ BitVec.ofBool c.transmitting
    ++ BitVec.ofBool ((c.cell 0 2).getLsbD 4) ++ BitVec.ofBool c.transmissionComplete ++ BitVec.ofBool (!c.txPending)
    ++ BitVec.ofBool ((c.cell 0 2).getLsbD 1) ++ BitVec.ofBool (decide (0 < c.fifoCount))

/-- RMC: bits 4:0 count the messages in the FIFO, bits 7:5 read 0 (spec 10_state.md R55; log 20). -/
def Controller.messageCount (c : Controller) : Byte := BitVec.ofNat 8 (c.fifoCount % 32)

/-! ### The receive FIFO (spec 10_state.md R32 (b), R52, R55, R56)

PRESUMED (log 27): the layout of the messages in the FIFO RAM is the family's. They stand one after another, each in the
length its frame-info byte gives, and the RAM wraps after its 64 bytes. -/

/-- The window address of a place in the FIFO RAM (spec 10_state.md R40: offsets 32-95). -/
def fifoCell (a : BitVec 6) : Nat := 32 + a.toNat

/-- RBSA bits 5:0: the FIFO address of the current receive buffer (spec 10_state.md R56). -/
def Controller.bufferStart (c : Controller) : BitVec 6 := (c.cell 0 30).extractLsb' 0 6

/-- The RAM cell that receive buffer byte `k` stands in (spec 10_state.md R52, R56). -/
def Controller.bufferCell (c : Controller) (k : Nat) : Nat := fifoCell (c.bufferStart + BitVec.ofNat 6 k)

/-- The controller with the current receive buffer at another FIFO address. -/
def Controller.moveBuffer (c : Controller) (a : BitVec 6) : Controller :=
  c.setCell 30 ((c.cell 0 30).extractLsb' 6 2 ++ a)

/-- The FIFO address where the next message goes: the current receive buffer's while the FIFO is empty, else past the
youngest message. -/
def Controller.fillStart (c : Controller) : BitVec 6 := if c.fifoCount = 0 then c.bufferStart else c.fifoEnd

/-- How many bytes of the FIFO RAM no waiting message takes: all 64 while the FIFO is empty, else those from its end up
to the current receive buffer. -/
def Controller.fifoRoom (c : Controller) : Nat := if c.fifoCount = 0 then 64 else (c.bufferStart - c.fifoEnd).toNat

/-- The controller with bytes stored in the FIFO RAM from an address on, wrapping at its end. -/
def Controller.storeFrom (c : Controller) (a : BitVec 6) : List Byte → Controller
  | [] => c
  | b :: bs => (c.setCell (fifoCell a) b).storeFrom (a + 1) bs

/-- The bytes of a message in the receive buffer: those its frame-info byte says belong to the frame, in the receive
layout (spec 30_encoding.md R111, R112, R114). -/
def messageBytes (img : Image) : List Byte := (List.range (imageLength (imageByte img 0))).map (receivedByte img)

/-! ### Accesses at the register port -/

/-- What the register map shows at an offset (spec 10_state.md R40, the read columns; R52 to R58). `free` stands for
whatever the spec does not fix there (log 13). -/
def Controller.shows (c : Controller) (free : Byte) (off : Offset) : Byte :=
  let a := off.toNat
  if a = 2 then c.statusRegister
  else if a = 29 then c.messageCount
  else if 16 ≤ a ∧ a ≤ 28 ∧ ¬ c.inResetMode then c.cell free (c.bufferCell (a - 16))
  else c.cell free a

/-- The controller after answering a read at `off` with `v` (spec 20_memory.md R65): IR loses the flags it reported,
ECC and ALC capture again, every other read has no side effect (log 18). -/
def Controller.afterRead (c : Controller) (off : Offset) (v : Byte) : Controller :=
  let a := off.toNat
  if a = 3 then c.setCell 3 ((c.cell 0 3) &&& ~~~v)
  else if a = 12 then { c with eccArmed := true }
  else if a = 11 then { c with alcArmed := true }
  else c

/-- Registers writable in both modes through one cell: MOD, IER and CDR (spec 10_state.md R40). -/
def writableAlways (a : Nat) : Bool := a == 0 || a == 4 || a == 31

/-- Registers writable in reset mode only: BTR0, BTR1, OCR, EWLR, RXERR, TXERR, the acceptance filter, RBSA and the
receive FIFO RAM (spec 10_state.md R40). -/
def writableInReset (a : Nat) : Bool :=
  a == 6 || a == 7 || a == 8 || a == 13 || a == 14 || a == 15 || (decide (16 ≤ a) && decide (a ≤ 23)) || a == 30
    || (decide (32 ≤ a) && decide (a ≤ 95))

/-- The cell a write at an offset stores to, if it stores (spec 10_state.md R40, the write columns; R53; 20_memory.md
R66 (b): a buffer write is discarded while a transmission is pending). A write to CMR stores nowhere (R66 (a)). -/
def Controller.writeCell (c : Controller) (off : Offset) : Option Nat :=
  let a := off.toNat
  if writableAlways a then some a
  else if c.inResetMode then (if writableInReset a then some a else none)
  else if 16 ≤ a ∧ a ≤ 28 then (if c.txPending then none else some (a + 80))
  else none

/-- These interrupts are caused: each sets its bit of IR if IER enables it (spec 10_state.md R44, R45). DEDUCED (log 28):
a disabled one stays unseen, as 70_reset_and_hazards.md R346 has it of TI. DESIGN CHOICE (log 28): it is not remembered,
so enabling it later raises nothing, RI too while a message waits; disabling leaves a bit of IR that is set. -/
def Controller.raise (c : Controller) (bits : Byte) : Controller :=
  c.setCell 3 ((c.cell 0 3) ||| (bits &&& c.cell 0 4))

/-- The controller is error-passive: a counter at or above the passive limit, "short of bus-off" (spec 00_scope.md R18;
43_status_decoder.md R240). Bus-off at the controller is SR.BS (log 17). -/
def Controller.isPassive (c : Controller) (limit : Nat) : Bool :=
  !c.busStatus && (decide (limit ≤ (c.cell 0 14).toNat) || decide (limit ≤ (c.cell 0 15).toNat))

/-- `c`, which comes after `before`, with EI raised if SR.ES or SR.BS changed, and EPI if the controller entered or left
error-passive (spec 10_state.md R44). -/
def Controller.raiseErrorChanges (before c : Controller) (limit : Nat) : Controller :=
  let d := if c.errorStatus = before.errorStatus ∧ c.busStatus = before.busStatus then c else c.raise 0x04
  if c.isPassive limit = before.isPassive limit then d else d.raise 0x20

/-- A register takes a value, from a write or on its own. SR, EWLR, RXERR and TXERR decide SR.ES, SR.BS and
error-passive, so a change there may raise EI and EPI (spec 10_state.md R43, R44). DESIGN CHOICE (log 24): a change of
MOD, of MOD.RM too, leaves everything else at the controller as it is: the transmission in progress and the latch, the
messages waiting in the FIFO (RMC, SR.RBS), SR.DOS and the pending bits of IR. DESIGN CHOICE (log 17): a value of SR with
bit 7 at 0 ends bus-off in any mode, and one that turns SR.DOS to 1 raises no DOI, which only a lost message does. -/
def Controller.setRegister (c : Controller) (limit a : Nat) (v : Byte) : Controller :=
  if a = 2 ∨ a = 13 ∨ a = 14 ∨ a = 15 then c.raiseErrorChanges (c.setCell a v) limit else c.setCell a v

/-- The controller after accepting a write of `v` at `off` (spec 20_memory.md R66): CMR latches a command byte, other
offsets store where the map says. `limit` is the error-passive limit. -/
def Controller.afterWrite (c : Controller) (limit : Nat) (off : Offset) (v : Byte) : Controller :=
  if off.toNat = 1 then { c with latch := c.latch ++ [v] }
  else
    match c.writeCell off with
    | some a => c.setRegister limit a v
    | none => c

/-! ### What the command bytes start (spec 10_state.md R42; 30_encoding.md R100, R101) -/

/-- A transmission request starts (spec 20_memory.md R67: "a repeated TR starts another transmission"; log 24). SR.TBS,
SR.TCS and SR.TS follow the transmission. DESIGN CHOICE (log 24): the request is taken in reset mode, in bus-off, and
while the controller's own MOD.LOM or MOD.SM is 1 too; it then waits, and completes only once the controller can
transmit. DESIGN CHOICE (log 24): MOD.STM, of which R41 says only "self-test mode", has no effect at the controller: TR
and SRR are taken alike whatever it holds. -/
def Controller.startTransmission (c : Controller) (selfReception singleShot : Bool) : Controller :=
  { c with inFlight := some { selfReception := selfReception, singleShot := singleShot, abortRequested := false } }

/-- AT: the transmission in progress, if any, is asked to stop; advisory (spec 41_transmit.md R177). -/
def Controller.requestAbort (c : Controller) : Controller :=
  { c with inFlight := c.inFlight.map fun r => { r with abortRequested := true } }

/-- RRB: on to the next buffered message, if any (spec 42_receive.md R205): RBSA moves past the current one
(spec 10_state.md R56; log 27). `free a` stands for RAM cell `a` where nothing was written. DESIGN CHOICE (log 18): IR is
left as it is, RI too, which the chip may also clear (93_implementation_defined.md I19; 90_conflicts.md C4). -/
def Controller.releaseReceiveBuffer (c : Controller) (free : Nat → Byte) : Controller :=
  if c.fifoCount = 0 then c
  else
    let info := c.cell (free (c.bufferCell 0)) (c.bufferCell 0)
    { c.moveBuffer (c.bufferStart + BitVec.ofNat 6 (imageLength info)) with fifoCount := c.fifoCount - 1 }

/-- CDO: SR.DOS is cleared (spec 10_state.md R42, R43). -/
def Controller.clearDataOverrun (c : Controller) : Controller := c.setCell 2 ((c.cell 0 2) &&& 0xFD#8)

/-! ### What happens at the controller on its own -/

/-- The transmit buffer as an image; `free a` stands for cell `a` where nothing was written since the controller's
reset (spec 10_state.md R53, R58). -/
def Controller.txBuffer (c : Controller) (free : Nat → Byte) : Image :=
  Vector.ofFn fun k : Fin 13 => c.cell (free (96 + k.val)) (96 + k.val)

/-- The transmit buffer as the message that a self-reception request delivers (spec 00_scope.md R18). What the receive
layout leaves unassigned, which the spec only says is ignored, stays open: `free (128 + k)` stands for it in buffer byte
`k` (log 13). -/
def Controller.selfReceived (c : Controller) (free : Nat → Byte) : Image :=
  let sent := c.txBuffer free
  Vector.ofFn fun k : Fin 13 =>
    let unassigned := unassignedBits (imageByte sent 0) k.val
    imageByte sent k.val &&& ~~~unassigned ||| free (128 + k.val) &&& unassigned

/-- A message enters the receive FIFO and RI is raised (spec 10_state.md R32 (b), R44): its bytes go into the RAM behind
those of the messages waiting (log 27). -/
def Controller.enqueue (c : Controller) (img : Image) : Controller :=
  Controller.raise
    { c.storeFrom c.fillStart (messageBytes img) with
      fifoCount := c.fifoCount + 1, fifoEnd := c.fillStart + BitVec.ofNat 6 (messageBytes img).length } 0x01

/-- A message is lost because the FIFO is full: SR.DOS and DOI (spec 10_state.md R43, R44). -/
def Controller.loseMessage (c : Controller) : Controller := (c.setCell 2 ((c.cell 0 2) ||| 0x02#8)).raise 0x08

/-- A message arrives: it needs room for its bytes in the FIFO (spec 10_state.md R43; log 27). -/
def Controller.receive (c : Controller) (img : Image) : Controller :=
  if (messageBytes img).length ≤ c.fifoRoom then c.enqueue img else c.loseMessage

/-- The transmission in progress is over: SR.TCS says whether it completed, SR.TS is 0. The transmit buffer is released,
and TI raised, unless another request already waits in the latch; so the buffer is released by the time TI is raised
(spec 10_state.md R43, R44; 43_status_decoder.md R251; 70_reset_and_hazards.md R352; log 24). -/
def Controller.releaseTransmitBuffer (c : Controller) (completed : Bool) : Controller :=
  let d := { c with inFlight := none }.setCell 2 (((c.cell 0 2) &&& 0xD7#8) ||| (if completed then 0x08#8 else 0x00#8))
  if d.txPending then d else d.raise 0x02

/-- The transmission in progress ends; with none in progress nothing happens (log 24). It completes only where the
controller can transmit, and may be given up anywhere. A completed self-reception request also delivers the frame to the
local receive path (spec 00_scope.md R18). DESIGN CHOICE (log 17): it does so whatever the acceptance filter holds, for
whose matching the spec gives no rule (R6 (g)). -/
def Controller.endTransmission (c : Controller) (free : Nat → Byte) (completed : Bool) : Controller :=
  match c.inFlight with
  | some r =>
    if completed && !c.mayTransmit then c
    else (if r.selfReception && completed then c.receive (c.selfReceived free) else c).releaseTransmitBuffer completed
  | none => c

/-- An attempt at the transmission in progress, which takes a controller that can transmit, fails: a single-shot one, or
one asked to stop, is not tried again and ends without completing; any other goes on (spec 30_encoding.md R101;
41_transmit.md R174; log 24). -/
def Controller.attemptFails (c : Controller) : Controller :=
  match c.inFlight with
  | some r => if c.mayTransmit && (r.singleShot || r.abortRequested) then c.releaseTransmitBuffer false else c
  | none => c

/-- A bus error: BEI, and ECC captures it if armed (spec 10_state.md R44, R49). DESIGN CHOICE (log 24): so it does with
DIR = 0 ("while transmitting") and no transmission in progress, and while MOD.LOM = 1, cases the spec does not give. -/
def Controller.captureBusError (c : Controller) (ecc : Byte) : Controller :=
  (if c.eccArmed then { c.setCell 12 ecc with eccArmed := false } else c).raise 0x80

/-- An arbitration loss: ALI, and ALC captures it if armed (spec 10_state.md R44, R48). DESIGN CHOICE (log 24): so it
does with no transmission in progress, and while MOD.LOM = 1, cases the spec does not give. -/
def Controller.captureArbLost (c : Controller) (alc : Byte) : Controller :=
  (if c.alcArmed then { c.setCell 11 alc with alcArmed := false } else c).raise 0x40

/-- The wake-up of a sleeping controller: WUI, and MOD.SM is cleared (spec 10_state.md R44; 60_exceptions.md R325: "the mode the
controller woke into"; DEDUCED, log 17). -/
def Controller.wake (c : Controller) : Controller := (c.setCell 0 ((c.cell 0 0) &&& 0x0F#8)).raise 0x10

/-- Bus activity: a sleeping controller wakes, and raises WUI (spec 10_state.md R44). -/
def Controller.awake (c : Controller) : Controller := if c.isSleeping then c.wake else c

/-- New error counters and bus status, with the interrupts their change raises (spec 10_state.md R43, R44, R51). DESIGN
CHOICE (log 17): the event may end bus-off in any mode. That the recovery goes through reset mode (spec 00_scope.md R18)
is the software's duty (90_conflicts.md C6) and is not enforced here (R7, 70_reset_and_hazards.md R352). DESIGN CHOICE
(log 24): entering bus-off leaves MOD as it is, since 43_status_decoder.md R242 gives the transition to reset mode for
the CFC's view alone; and it leaves the transmission in progress, a single-shot one too, waiting; it may complete after
the recovery. -/
def Controller.setErrorCounters (c : Controller) (limit : Nat) (rxerr txerr : Byte) (busOff : Bool) : Controller :=
  let sr := if busOff then (c.cell 0 2) ||| 0x80#8 else (c.cell 0 2) &&& 0x7F#8
  c.raiseErrorChanges (((c.setCell 14 rxerr).setCell 15 txerr).setCell 2 sr) limit

/-- The controller after an event of its own (spec 10_state.md R32, R43, R44; 70_reset_and_hazards.md R341, R352;
log 17). Messages arrive and bus errors and arbitration losses happen only where the controller takes part in the bus
(spec 00_scope.md R18). They are bus activity, so they wake a sleeping controller, which raises WUI; that it then receives
or captures the same event is a DESIGN CHOICE (log 17). A bus error while receiving (DIR = 1) is no failed attempt. The
bits of IR are set by their causes alone, while enabled (R45, log 28). -/
def Controller.onEvent (c : Controller) (params : Config.Params) (free : Nat → Byte) : EnvEvent → Controller
  | .register off v =>
    if isStored off.toNat ∧ off.toNat ≠ 3 then c.setRegister params.passiveLimit off.toNat v else c
  | .message img => if c.onBus then c.awake.receive img else c
  | .transmitEnd completed => c.endTransmission free completed
  | .busErrorCapture v =>
    if c.onBus then
      (if v.getLsbD 5 then c.awake.captureBusError v else (c.awake.captureBusError v).attemptFails)
    else c
  | .arbLostCapture v => if c.onBus then (c.awake.captureArbLost v).attemptFails else c
  | .errorCounters rxerr txerr busOff => c.setErrorCounters params.passiveLimit rxerr txerr busOff
  | .wakeUp => c.awake
  | .hardwareReset => Controller.reset

/-- The interrupt line: asserted while any enabled source is pending, IER bit i enabling IR bit i
(spec 10_state.md R45; 60_exceptions.md R310). -/
def Controller.interruptLine (c : Controller) : Bool := (c.cell 0 3) &&& (c.cell 0 4) != 0#8

end Sys2Proof.Machine
end

