-- ==== Sys2Proof/Machine/Ops.lean ====
section
/-! DEFINITION. The shared operations: setting one field of the state, register accesses, chip select, events, results,
and the device-not-responding exit (the one exception the CFC has). -/

namespace Sys2Proof.Machine

/-! ### Setting one field -/

def State.withStatus (s : State) (x : ControllerStatus) : State := { s with status := x }
def State.withClass (s : State) (x : BusClass) : State := { s with busClass := x }
def State.withMode (s : State) (x : ModeView) : State := { s with mode := x }
def State.withEccCap (s : State) (x : Option Byte) : State := { s with eccCap := x }
def State.withAlcCap (s : State) (x : Option Byte) : State := { s with alcCap := x }
def State.withDevFault (s : State) (x : Bool) : State := { s with devFault := x }
def State.withInputs (s : State) (x : List Input) : State := { s with inputs := x }
def State.withController (s : State) (x : Controller) : State := { s with controller := x }

/-- Appends one entry to the log (spec 10_state.md R38). -/
def State.record (s : State) (e : LogEntry) : State := { s with log := s.log ++ [e] }

/-- Counts one register access. -/
def State.countAccess (s : State) : State := { s with accesses := s.accesses + 1 }

/-- Returns a result code and outputs on the command port (spec 00_scope.md R9, R15 `return`). -/
def State.respond (s : State) (r : Result) (outs : Outputs) : State := { s with response := some { result := r, outs := outs } }

/-! ### Chip select (spec 20_memory.md R68) -/

/-- `Select`. -/
def State.select (s : State) : State := s.record .sel

/-- `Deselect`. -/
def State.deselect (s : State) : State := s.record .desel

/-! ### Status-change events (spec 44_block_control.md R290) -/

/-- The 12-bit status word (spec 10_state.md R26). -/
def State.statusWord (s : State) : BitVec 12 :=
  BitVec.ofBool s.devFault ++ classCode s.busClass ++ BitVec.ofBool s.status.busError ++ BitVec.ofBool s.status.arbLost
    ++ BitVec.ofBool s.status.errPassive ++ BitVec.ofBool s.status.dataOverrun ++ BitVec.ofBool s.status.errWarning
    ++ BitVec.ofBool s.status.txBusy ++ BitVec.ofBool s.status.busOn ++ BitVec.ofBool s.status.msgWaiting
    ++ BitVec.ofBool s.status.initialized

/-- `emit status_change if changed`: the ten values against those at the start of the operation
(spec 44_block_control.md R290). -/
def State.emitIfChanged (start s : State) : State :=
  if s.status = start.status ∧ s.busClass = start.busClass then s
  else s.record (.statusChange s.statusWord s.busClass)

/-! ### Register accesses (spec 20_memory.md R62, R69, R70) -/

/-- The controller's answer to the access with number `n`: the listed one, or the free one (log 3). -/
def State.answerAt (s : State) (n : Nat) : Config.Answer := (s.answers[n]?).getD (Config.rdOracle n)

/-- What the next access would read at `off`; none where the controller does not respond. -/
def State.readValue (s : State) (off : Offset) : Option Byte :=
  match s.answerAt s.accesses with
  | .byte v => some v
  | .held => some (s.controller.shows (Config.freeByte s.accesses off.toNat) off)
  | .noresp => none

/-- Where a sequence of accesses stands: going on with a value, or ended by an access without response. -/
inductive Access (α : Type) where
  | going (v : α) (s : State)
  | lost (s : State)
  deriving DecidableEq, Repr

/-- The next accesses, unless one before got no response. -/
def Access.andThen {α β : Type} (a : Access α) (k : α → State → Access β) : Access β :=
  match a with
  | .going v s => k v s
  | .lost s => .lost s

/-- An access without response: logged with its offset (spec 10_state.md R38), and nothing happens at the controller
(log 15). -/
def State.noResponse (s : State) (off : Offset) : State := s.countAccess.record (.noResp off)

/-- A read answered with `v`. -/
def State.afterRead (s : State) (off : Offset) (v : Byte) : State :=
  (s.countAccess.withController (s.controller.afterRead off v)).record (.rd off v)

/-- A write answered with `ok`. -/
def State.afterWrite (s : State) (off : Offset) (v : Byte) : State :=
  (s.countAccess.withController (s.controller.afterWrite s.params.passiveLimit off v)).record (.wr off v)

/-- `RegRead(off)` (spec 00_scope.md R15). -/
def regRead (off : Offset) (s : State) : Access Byte :=
  match s.readValue off with
  | some v => .going v (s.afterRead off v)
  | none => .lost (s.noResponse off)

/-- `RegWrite(off, v)` (spec 00_scope.md R15). -/
def regWrite (off : Offset) (v : Byte) (s : State) : Access Unit :=
  if s.answerAt s.accesses = .noresp then .lost (s.noResponse off)
  else .going () (s.afterWrite off v)

/-- Writes in the order of the list (spec 20_memory.md R70). -/
def regWriteAll : List (Offset × Byte) → State → Access Unit
  | [], s => .going () s
  | (off, v) :: ws, s => (regWrite off v s).andThen fun _ t => regWriteAll ws t

/-- Reads in the order of the list, giving the bytes in that order (spec 20_memory.md R70). -/
def regReadAll : List Offset → State → Access (List Byte)
  | [], s => .going [] s
  | off :: offs, s =>
    (regRead off s).andThen fun v t => (regReadAll offs t).andThen fun vs u => .going (v :: vs) u

/-! ### The exception of the CFC and the end of an operation -/

/-- Taking the exception `DeviceNotResponding` (spec 00_scope.md R16), after the failing access was logged: the sticky
fault, `Deselect`, a status change if any flag or the class changed since `start`, and the result. Every write the
operation made before stays. There is no handler, nothing is saved, and nothing returns from it but RESET
(spec 10_state.md R30; 60_exceptions.md R315, R316). -/
def State.deviceNotResponding (start s : State) : State :=
  (start.emitIfChanged (s.withDevFault true).deselect).respond .deviceNotResponding .none

/-- Ends an operation that has accessed the window: `finish` where every access was answered, and the exception
otherwise. -/
def Access.conclude {α : Type} (a : Access α) (start : State) (finish : α → State → State) : State :=
  match a with
  | .going v s => finish v s
  | .lost s => start.deviceNotResponding s

end Sys2Proof.Machine
end

