-- ==== Sys2Proof/Machine/CmrCommands.lean ====
section
/-! DEFINITION. Meanings of the seven command bytes: what the controller starts when it acts on them
(spec 10_state.md R42; 30_encoding.md R100, R101; log 8). No CFC field changes. -/

namespace Sys2Proof.Machine

/-- TR: transmission request. -/
def execCmrTr (s : State) : Host.Outcome State Fault Refusal :=
  .next (s.withController (s.controller.startTransmission false false))

/-- SRR: self-reception request. -/
def execCmrSrr (s : State) : Host.Outcome State Fault Refusal :=
  .next (s.withController (s.controller.startTransmission true false))

/-- TR|AT: single-shot transmission. -/
def execCmrTrAt (s : State) : Host.Outcome State Fault Refusal :=
  .next (s.withController (s.controller.startTransmission false true))

/-- SRR|AT: single-shot self-reception. -/
def execCmrSrrAt (s : State) : Host.Outcome State Fault Refusal :=
  .next (s.withController (s.controller.startTransmission true true))

/-- AT: abort transmission. -/
def execCmrAt (s : State) : Host.Outcome State Fault Refusal :=
  .next (s.withController s.controller.requestAbort)

/-- RRB: release receive buffer; a RAM cell nothing was written to is free (log 13). -/
def execCmrRrb (s : State) : Host.Outcome State Fault Refusal :=
  .next (s.withController (s.controller.releaseReceiveBuffer (Config.freeByte s.accesses)))

/-- CDO: clear data overrun. -/
def execCmrCdo (s : State) : Host.Outcome State Fault Refusal :=
  .next (s.withController s.controller.clearDataOverrun)

end Sys2Proof.Machine
end

