-- ==== Sys2Proof/Machine/Flags.lean ====
section
/-! DEFINITION. The flag computations: single flags, the bus-state classification and its writing into the state. -/

namespace Sys2Proof.Machine

/-! ### Single flags (spec 10_state.md R24) -/

def State.setInitialized (s : State) (b : Bool) : State := s.withStatus { s.status with initialized := b }
def State.setMsgWaiting (s : State) (b : Bool) : State := s.withStatus { s.status with msgWaiting := b }
def State.setBusOn (s : State) (b : Bool) : State := s.withStatus { s.status with busOn := b }
def State.setTxBusy (s : State) (b : Bool) : State := s.withStatus { s.status with txBusy := b }
def State.setErrWarning (s : State) (b : Bool) : State := s.withStatus { s.status with errWarning := b }
def State.setDataOverrun (s : State) (b : Bool) : State := s.withStatus { s.status with dataOverrun := b }
def State.setErrPassive (s : State) (b : Bool) : State := s.withStatus { s.status with errPassive := b }
def State.setArbLost (s : State) (b : Bool) : State := s.withStatus { s.status with arbLost := b }
def State.setBusError (s : State) (b : Bool) : State := s.withStatus { s.status with busError := b }

/-! ### Classification -/

/-- `Classify(sr, ewlr, rxerr, txerr)`; every comparison is unsigned (spec 43_status_decoder.md R240). -/
def classify (p : Config.Params) (sr ewlr rxerr txerr : Byte) : BusClass :=
  if sr.getLsbD 7 = true ∨ p.busOffTxerr ≤ txerr.toNat then .busOff
  else if p.passiveLimit ≤ rxerr.toNat ∨ p.passiveLimit ≤ txerr.toNat then .passive
  else if ewlr.toNat ≤ rxerr.toNat ∨ ewlr.toNat ≤ txerr.toNat then .warning
  else .active

/-- `ApplyClass(cls)`: bus-off is latched, and its entry takes the bus off and the mode view to RESET
(spec 43_status_decoder.md R242). -/
def State.applyClass (s : State) (cls : BusClass) : State :=
  if cls = .busOff then
    ((((s.withClass .busOff).setBusOn false).setErrWarning false).setErrPassive false).withMode { s.mode with op := .reset }
  else if s.busClass = .busOff then s
  else ((s.withClass cls).setErrWarning (cls == .warning)).setErrPassive (cls == .passive)

end Sys2Proof.Machine
end

