-- ==== Sys2Proof/Machine/Control.lean ====
section
/-! DEFINITION. Meanings of SET_MODE, READ_STATUS and RESET (spec 44_block_control.md). -/

namespace Sys2Proof.Machine

/-- Entering the mode the Mode Controller confirmed: the pending request is over; OPERATING initialises, turns the bus
on and recovers from bus-off, RESET turns the bus off (spec 44_block_control.md R280, R281; log 21). -/
def State.enterMode (s : State) (m : ModeView) : State :=
  let s := (s.withMode m).setTxBusy false
  match m.op with
  | .operating =>
    let s := (s.setInitialized true).setBusOn true
    if s.busClass = .busOff then s.withClass .active else s
  | .reset => s.setBusOn false

/-- SET_MODE (spec 44_block_control.md R280; 60_exceptions.md R303). -/
def execSetMode (modeIn : Byte) (s : State) : Host.Outcome State Fault Refusal :=
  .next (
    if s.devFault then s.respond .deviceNotResponding .none
    else if ¬ modeInLegal modeIn then s.respond .invalidOperand .none
    else (s.emitIfChanged (s.enterMode (modeOfByte modeIn))).respond .ok .none)

/-- READ_STATUS (spec 44_block_control.md R284). -/
def execReadStatus (s : State) : Host.Outcome State Fault Refusal :=
  .next (s.respond .ok (.status s.statusWord (modeByte s.mode) s.eccCap s.alcCap))

/-- Every field of the CFC but the log at its reset value (spec 10_state.md R20; 70_reset_and_hazards.md R340). -/
def State.resetFields (s : State) : State :=
  (((((s.withStatus ControllerStatus.reset).withClass .active).withMode ModeView.reset).withEccCap none).withAlcCap
    none).withDevFault false

/-- `reset_pulse()`: logged, and the controller is asked to reset (spec 00_scope.md R11; log 16). -/
def State.resetPulse (s : State) : State :=
  (s.record .pulse).withController { s.controller with resetRequested := true }

/-- RESET (spec 44_block_control.md R286). -/
def execReset (s : State) : Host.Outcome State Fault Refusal :=
  .next (s.resetPulse.resetFields.respond .ok .none)

end Sys2Proof.Machine
end

