-- ==== Sys2Proof/Machine/FrameCodec.lean ====
section
/-! DEFINITION. Meanings of ENCODE and DECODE, and of the two buffer formats. -/

namespace Sys2Proof.Machine

/-- ENCODE (spec 40_frame_codec.md R145). -/
def execEncode (f : Frame) (s : State) : Host.Outcome State Fault Refusal :=
  .next (if frameWf f then s.respond .ok (.image (imageOut f)) else s.respond .invalidFrame .none)

/-- DECODE (spec 40_frame_codec.md R150). -/
def execDecode (img : Image) (s : State) : Host.Outcome State Fault Refusal :=
  .next (s.respond .ok (.frame (some (decodeImage img))))

/-- Reading the image headed by a frame-info byte into a frame (spec 40_frame_codec.md R148; log 9). -/
def State.readImage (s : State) (info : Byte) (rest : Vector Byte 12) : State :=
  s.respond .ok (.frame (some (decodeWith (imageFrom info rest))))

/-- The SFF format: FF = 0, identifier in bytes 1-2, data from byte 3 (spec 30_encoding.md R110, R111, R113; log 9). -/
def execBufSff (rtr : Bool) (unused : BitVec 2) (dlc : BitVec 4) (rest : Vector Byte 12) (s : State) :
    Host.Outcome State Fault Refusal :=
  .next (s.readImage (0#1 ++ BitVec.ofBool rtr ++ unused ++ dlc) rest)

/-- The EFF format: FF = 1, identifier in bytes 1-4, data from byte 5 (spec 30_encoding.md R110, R112, R113; log 9). -/
def execBufEff (rtr : Bool) (unused : BitVec 2) (dlc : BitVec 4) (rest : Vector Byte 12) (s : State) :
    Host.Outcome State Fault Refusal :=
  .next (s.readImage (1#1 ++ BitVec.ofBool rtr ++ unused ++ dlc) rest)

end Sys2Proof.Machine
end

