-- ==== Sys2Proof/Machine/Receive.lean ====
section
/-! DEFINITION. Meaning of TRY_RECEIVE (spec 42_receive.md). -/

namespace Sys2Proof.Machine

/-- `DecodeWith` over the receive buffer: byte 0 first, then the bytes it calls for (spec 42_receive.md R203). -/
def readFrame (s : State) : Access Frame :=
  (regRead (bufferOffset 0) s).andThen fun info t =>
    (regReadAll ((restIndices info).map bufferOffset) t).andThen fun rest u => .going (frameOf info rest) u

/-- The overrun acknowledgment, after the release: CDO only if the cached flag is 1 (spec 42_receive.md R207). -/
def acknowledgeOverrun (s : State) : Access Unit :=
  if s.status.dataOverrun then (regWrite 1 0x08 s).andThen fun _ t => .going () (t.setDataOverrun false)
  else .going () s

/-- Whether more than the message just read is counted (spec 42_receive.md R204, R206). -/
def State.moreMessages (s : State) (rmc : Byte) : Bool := decide (1 < (rmc &&& s.params.rmcMask).toNat)

/-- Draining one message: frame, RMC, RRB, message-waiting, overrun acknowledgment (spec 42_receive.md R203 to R207). -/
def drainMessage (s : State) : Access (Option Frame) :=
  (readFrame s).andThen fun f t =>
    (regRead 29 t).andThen fun rmc u =>
      (regWrite 1 0x04 u).andThen fun _ w =>
        (acknowledgeOverrun (w.setMsgWaiting (w.moreMessages rmc))).andThen fun _ x => .going (some f) x

/-- The accesses of TRY_RECEIVE: SR.RBS decides (spec 42_receive.md R202). -/
def receiveAccesses (s : State) : Access (Option Frame) :=
  (regRead 2 s).andThen fun sr t => if sr.getLsbD 0 then drainMessage t else .going none (t.setMsgWaiting false)

/-- The event `frame_received`, where a frame came (spec 42_receive.md R208). -/
def State.recordFrame (s : State) (f : Option Frame) : State :=
  match f with
  | some f => s.record (.frameReceived f)
  | none => s

/-- TRY_RECEIVE (spec 42_receive.md R200, R201). -/
def execTryReceive (s : State) : Host.Outcome State Fault Refusal :=
  .next (
    if s.devFault then s.respond .deviceNotResponding .none
    else if s.mode.op ≠ .operating then s.respond .notOperating .none
    else Access.conclude (receiveAccesses s.select) s
      (fun f t => (s.emitIfChanged (t.deselect.recordFrame f)).respond .ok (.frame f)))

end Sys2Proof.Machine
end

