-- ==== Sys2Proof/Machine/Captures.lean ====
section
/-! DEFINITION. The decoders of the two capture registers: `EccDecode` and `AlcDecode`. -/

namespace Sys2Proof.Machine

/-- `SegName(s)` (spec 43_status_decoder.md R231). -/
def segName (s : BitVec 5) : Segment :=
  match s.toNat with
  | 0x02 => .id28to21
  | 0x03 => .startOfFrame
  | 0x04 => .srtrBit
  | 0x05 => .ideBit
  | 0x06 => .id20to18
  | 0x07 => .id17to13
  | 0x08 => .crcSequence
  | 0x09 => .reservedBit0
  | 0x0A => .dataField
  | 0x0B => .dataLengthCode
  | 0x0C => .rtrBit
  | 0x0D => .reservedBit1
  | 0x0E => .id4to0
  | 0x0F => .id12to5
  | 0x11 => .activeErrorFlag
  | 0x12 => .intermission
  | 0x13 => .tolerateDominantBits
  | 0x16 => .passiveErrorFlag
  | 0x17 => .errorDelimiter
  | 0x18 => .crcDelimiter
  | 0x19 => .ackSlot
  | 0x1A => .endOfFrame
  | 0x1B => .ackDelimiter
  | 0x1C => .overloadFlag
  | _ => .reserved s

/-- `[BIT, FORM, STUFF, OTHER][b[7:6]]` (spec 43_status_decoder.md R230). -/
def errorCode (b : Byte) : ErrorCode :=
  match (b.extractLsb' 6 2).toNat with
  | 0 => .bit
  | 1 => .form
  | 2 => .stuff
  | _ => .other

/-- `EccDecode(b)` (spec 43_status_decoder.md R230). -/
def eccDecode (b : Byte) : EccRecord :=
  { errc := errorCode b, dir := if b.getLsbD 5 then .rx else .tx, seg := segName (b.extractLsb' 0 5) }

/-- The field of a bit number (spec 43_status_decoder.md R235). -/
def alcField (c : Nat) : AlcField :=
  if c ≤ 10 then .idBit (28 - c)
  else if c = 11 then .rtrOrSrtr
  else if c = 12 then .ide
  else if c ≤ 30 then .idBit (30 - c)
  else .rtr

/-- `AlcDecode(b)`; bits 7:5 are ignored (spec 43_status_decoder.md R235). -/
def alcDecode (b : Byte) : AlcRecord :=
  { bitno := b.extractLsb' 0 5, field := alcField (b.extractLsb' 0 5).toNat }

end Sys2Proof.Machine
end

