-- ==== Sys2Proof/Machine/StatusDecoder.lean ====
section
/-! DEFINITION. Meanings of DECODE_ECC, DECODE_ALC, CLASSIFY, HANDLE_INTERRUPT and ACK_EVENTS
(spec 43_status_decoder.md). -/

namespace Sys2Proof.Machine

/-- DECODE_ECC (spec 43_status_decoder.md R230). -/
def execDecodeEcc (b : Byte) (s : State) : Host.Outcome State Fault Refusal :=
  .next (s.respond .ok (.ecc (eccDecode b)))

/-- DECODE_ALC (spec 43_status_decoder.md R235). -/
def execDecodeAlc (b : Byte) (s : State) : Host.Outcome State Fault Refusal :=
  .next (s.respond .ok (.alc (alcDecode b)))

/-- CLASSIFY (spec 43_status_decoder.md R240). -/
def execClassify (sr ewlr rxerr txerr : Byte) (s : State) : Host.Outcome State Fault Refusal :=
  .next (s.respond .ok (.cls (classify s.params sr ewlr rxerr txerr)))

/-! ### Interrupt dispatch (spec 43_status_decoder.md R245) -/

/-- DOI, bit 3: recorded, nothing read (spec R246). -/
def onOverrun (ir : Byte) (s : State) : State := if ir.getLsbD 3 then s.setDataOverrun true else s

/-- BEI, bit 7: the flag, then ECC (spec R247). -/
def onBusError (ir : Byte) (s : State) : Access Unit :=
  if ir.getLsbD 7 then
    (regRead 12 (s.setBusError true)).andThen fun v t => .going () (t.withEccCap (some v))
  else .going () s

/-- ALI, bit 6: the flag, then ALC (spec R248). -/
def onArbLost (ir : Byte) (s : State) : Access Unit :=
  if ir.getLsbD 6 then
    (regRead 11 (s.setArbLost true)).andThen fun v t => .going () (t.withAlcCap (some v))
  else .going () s

/-- EPI (bit 5) or EI (bit 2): one classification from SR, EWLR, RXERR and TXERR, read in this order
(spec R241, R249). -/
def onErrorState (ir : Byte) (s : State) : Access Unit :=
  if ir.getLsbD 5 || ir.getLsbD 2 then
    (regRead 2 s).andThen fun sr t =>
      (regRead 13 t).andThen fun ewlr u =>
        (regRead 14 u).andThen fun rxerr v =>
          (regRead 15 v).andThen fun txerr w =>
            .going () (w.applyClass (classify w.params sr ewlr rxerr txerr))
  else .going () s

/-- RI, bit 0: recorded, nothing read (spec R250). -/
def onReceive (ir : Byte) (s : State) : State := if ir.getLsbD 0 then s.setMsgWaiting true else s

/-- TI, bit 1: SR is read, the transmission is over; gives SR.TCS for `tx_done` (spec R251). -/
def onTransmit (ir : Byte) (s : State) : Access (Option Bool) :=
  if ir.getLsbD 1 then
    (regRead 2 s).andThen fun sr t => .going (some (sr.getLsbD 3)) (t.setTxBusy false)
  else .going none s

/-- The branches on one snapshot, in the fixed order (spec R253). -/
def dispatchSnapshot (ir : Byte) (s : State) : Access (Option Bool) :=
  (onBusError ir (onOverrun ir s)).andThen fun _ t =>
    (onArbLost ir t).andThen fun _ u =>
      (onErrorState ir u).andThen fun _ v => onTransmit ir (onReceive ir v)

/-- The accesses of HANDLE_INTERRUPT: the one IR read, then the branches (spec R254). -/
def interruptAccesses (s : State) : Access (Byte × Option Bool) :=
  (regRead 3 s).andThen fun ir t => (dispatchSnapshot ir t).andThen fun done u => .going (ir, done) u

/-- The event `tx_done`, where TI was set (spec R251). -/
def State.recordTxDone (s : State) (done : Option Bool) : State :=
  match done with
  | some c => s.record (.txDone c)
  | none => s

/-- The event `wake_up` on WUI, bit 4 (spec R252). -/
def State.recordWakeUp (s : State) (ir : Byte) : State := if ir.getLsbD 4 then s.record .wakeUp else s

/-- HANDLE_INTERRUPT (spec 43_status_decoder.md R245; 60_exceptions.md R303, R315, R316). -/
def execHandleInterrupt (s : State) : Host.Outcome State Fault Refusal :=
  .next (
    if s.devFault then s.respond .deviceNotResponding .none
    else Access.conclude (interruptAccesses s.select) s
      (fun r t => (s.emitIfChanged ((t.deselect.recordTxDone r.2).recordWakeUp r.1)).respond .ok .none))

/-- ACK_EVENTS (spec 43_status_decoder.md R260). -/
def execAckEvents (s : State) : Host.Outcome State Fault Refusal :=
  .next ((s.emitIfChanged ((s.setArbLost false).setBusError false)).respond .ok .none)

end Sys2Proof.Machine
end

