-- ==== Sys2Proof/Machine/Transmit.lean ====
section
/-! DEFINITION. Meanings of TRANSMIT, TRANSMIT_SS, ABORT and TX_READBACK (spec 41_transmit.md). -/

namespace Sys2Proof.Machine

/-- `TxCheck(f)`: the result of the first admission check that fails (spec 41_transmit.md R170; 60_exceptions.md R304). -/
def State.txCheck (s : State) (f : Frame) : Option Result :=
  if s.devFault then some .deviceNotResponding
  else if ¬ frameWf f then some .invalidFrame
  else if s.busClass = .busOff then some .busOff
  else if s.mode.op ≠ .operating ∨ s.mode.lom = true ∨ s.mode.sm = true then some .notOperating
  else if s.status.txBusy then some .transmitBusy
  else none

/-- The buffer writes of a frame, in order (spec 41_transmit.md R172). -/
def bufferWrites (f : Frame) : List (Offset × Byte) := (txImage f).map fun p => (bufferOffset p.1, p.2)

/-- The transmit sequence shared by TRANSMIT and TRANSMIT_SS, which differ in the command byte alone
(spec 41_transmit.md R172, R173). -/
def State.transmitWith (s : State) (command : Byte) (f : Frame) : State :=
  match s.txCheck f with
  | some r => s.respond r .none
  | none =>
    Access.conclude
      ((regWriteAll (bufferWrites f) s.select).andThen fun _ t => regWrite 1 command (t.setTxBusy true))
      s (fun _ t => (s.emitIfChanged t.deselect).respond .ok .none)

/-- TRANSMIT: SRR in self-test mode, TR otherwise (spec 41_transmit.md R172; 30_encoding.md R100). -/
def execTransmit (f : Frame) (s : State) : Host.Outcome State Fault Refusal :=
  .next (s.transmitWith (if s.mode.stm then 0x10 else 0x01) f)

/-- TRANSMIT_SS: SRR|AT in self-test mode, TR|AT otherwise (spec 41_transmit.md R173; 30_encoding.md R100, R101). -/
def execTransmitSs (f : Frame) (s : State) : Host.Outcome State Fault Refusal :=
  .next (s.transmitWith (if s.mode.stm then 0x12 else 0x03) f)

/-- ABORT (spec 41_transmit.md R176, R177). -/
def execAbort (s : State) : Host.Outcome State Fault Refusal :=
  .next (
    if s.devFault then s.respond .deviceNotResponding .none
    else if ¬ s.status.txBusy then s.respond .ok .none
    else Access.conclude (regWrite 1 0x02 s.select) s (fun _ t => t.deselect.respond .ok .none))

/-- TX_READBACK (spec 41_transmit.md R178). -/
def execTxReadback (k : Byte) (s : State) : Host.Outcome State Fault Refusal :=
  .next (
    if s.devFault then s.respond .deviceNotResponding .none
    else if ¬ indexLegal k then s.respond .invalidOperand .none
    else Access.conclude (regRead (BitVec.ofNat 7 (96 + k.toNat)) s.select) s
      (fun v t => t.deselect.respond .ok (.byte v)))

end Sys2Proof.Machine
end

