-- ==== Sys2Proof/Machine/Dispatch.lean ====
section
/-! DEFINITION. The meaning of every instruction, one arm per constructor. -/

namespace Sys2Proof.Machine

def exec (i : Instr) (s : State) : Host.Outcome State Fault Refusal :=
  match i with
  | .transmit f => Sys2Proof.Machine.execTransmit f s
  | .transmitSs f => Sys2Proof.Machine.execTransmitSs f s
  | .abort => Sys2Proof.Machine.execAbort s
  | .tryReceive => Sys2Proof.Machine.execTryReceive s
  | .handleInterrupt => Sys2Proof.Machine.execHandleInterrupt s
  | .setMode modeIn => Sys2Proof.Machine.execSetMode modeIn s
  | .ackEvents => Sys2Proof.Machine.execAckEvents s
  | .readStatus => Sys2Proof.Machine.execReadStatus s
  | .reset => Sys2Proof.Machine.execReset s
  | .encode f => Sys2Proof.Machine.execEncode f s
  | .decode img => Sys2Proof.Machine.execDecode img s
  | .decodeEcc b => Sys2Proof.Machine.execDecodeEcc b s
  | .decodeAlc b => Sys2Proof.Machine.execDecodeAlc b s
  | .classify sr ewlr rxerr txerr => Sys2Proof.Machine.execClassify sr ewlr rxerr txerr s
  | .txReadback k => Sys2Proof.Machine.execTxReadback k s
  | .cmrTr => Sys2Proof.Machine.execCmrTr s
  | .cmrSrr => Sys2Proof.Machine.execCmrSrr s
  | .cmrTrAt => Sys2Proof.Machine.execCmrTrAt s
  | .cmrSrrAt => Sys2Proof.Machine.execCmrSrrAt s
  | .cmrAt => Sys2Proof.Machine.execCmrAt s
  | .cmrRrb => Sys2Proof.Machine.execCmrRrb s
  | .cmrCdo => Sys2Proof.Machine.execCmrCdo s
  | .bufSff rtr unused dlc rest => Sys2Proof.Machine.execBufSff rtr unused dlc rest s
  | .bufEff rtr unused dlc rest => Sys2Proof.Machine.execBufEff rtr unused dlc rest s

end Sys2Proof.Machine
end

