-- ==== Sys2Proof/Decode.lean ====
section
/-! DEFINITION. The decoder, total on everything a port can carry and rejecting by name, and the encoder. -/

namespace Sys2Proof

/-- What a port carries: a command word with the operand lines (spec 30_encoding.md R90), a byte written to CMR
(spec R100), or a buffer image as its frame-info byte and buffer bytes 1..12 (spec R110 to R112). -/
inductive Packet where
  | command (word : Byte) (lines : OperandLines)
  | cmr (b : Byte)
  | image (info : Byte) (rest : Vector Byte 12)
  deriving DecidableEq, Repr

/-- Why the decoder rejects a packet. -/
inductive Reject where
  /-- One of the 241 illegal command words (spec 30_encoding.md R93, R95). -/
  | illegalCommand (word : Byte)
  /-- One of the 249 byte values that are no CMR command (spec 30_encoding.md R102). -/
  | reservedCmrByte (b : Byte)
  deriving DecidableEq, Repr

/-- The opcode map `table_R92` (spec 30_encoding.md R92), with each opcode's operands from the lines. -/
def commandOf (op : BitVec 4) (l : OperandLines) : Option Instr :=
  match op.toNat with
  | 0x1 => some (.transmit l.frameIn)
  | 0x2 => some (.transmitSs l.frameIn)
  | 0x3 => some .abort
  | 0x4 => some .tryReceive
  | 0x5 => some .handleInterrupt
  | 0x6 => some (.setMode l.modeIn)
  | 0x7 => some .ackEvents
  | 0x8 => some .readStatus
  | 0x9 => some .reset
  | 0xA => some (.encode l.frameIn)
  | 0xB => some (.decode l.imageIn)
  | 0xC => some (.decodeEcc l.byteIn)
  | 0xD => some (.decodeAlc l.byteIn)
  | 0xE => some (.classify l.clsSr l.clsEwlr l.clsRxerr l.clsTxerr)
  | 0xF => some (.txReadback l.indexIn)
  | _ => none

/-- Decoding of a command word: RSV (bits 7:4) must be 0000 and OP (bits 3:0) must not be 0
(spec 30_encoding.md R90, R93). -/
def decodeCommand (word : Byte) (l : OperandLines) : Except Reject Instr :=
  if word.extractLsb' 4 4 ≠ 0#4 then .error (.illegalCommand word)
  else
    match commandOf (word.extractLsb' 0 4) l with
    | some i => .ok i
    | none => .error (.illegalCommand word)

/-- Decoding of a byte written to CMR: the seven command bytes (spec 30_encoding.md R100, R102). -/
def decodeCmr (b : Byte) : Except Reject Instr :=
  match b.toNat with
  | 0x01 => .ok .cmrTr
  | 0x10 => .ok .cmrSrr
  | 0x03 => .ok .cmrTrAt
  | 0x12 => .ok .cmrSrrAt
  | 0x02 => .ok .cmrAt
  | 0x04 => .ok .cmrRrb
  | 0x08 => .ok .cmrCdo
  | _ => .error (.reservedCmrByte b)

/-- Decoding of a buffer image by its frame-info byte: FF is bit 7, RTR bit 6, bits 5:4 unassigned, DLC bits 3:0
(spec 30_encoding.md R110). Every byte is a frame-info byte. -/
def decodeFrameInfo (info : Byte) (rest : Vector Byte 12) : Instr :=
  if info.getLsbD 7 then .bufEff (info.getLsbD 6) (info.extractLsb' 4 2) (info.extractLsb' 0 4) rest
  else .bufSff (info.getLsbD 6) (info.extractLsb' 4 2) (info.extractLsb' 0 4) rest

/-- The decoder: each port has its own words (spec 00_scope.md R2; log 10). -/
def decode : Packet → Except Reject Instr
  | .command word lines => decodeCommand word lines
  | .cmr b => decodeCmr b
  | .image info rest => .ok (decodeFrameInfo info rest)

/-- A frame-info byte from its fields, FF on top (spec 30_encoding.md R110). -/
def frameInfoByte (ff rtr : Bool) (unused : BitVec 2) (dlc : BitVec 4) : Byte :=
  BitVec.ofBool ff ++ BitVec.ofBool rtr ++ unused ++ dlc

/-- The encoder: the packet of an instruction, with every operand line the opcode does not name at zero
(spec 30_encoding.md R92, R100, R110). -/
def encode : Instr → Packet
  | .transmit f => .command 0x01 { OperandLines.zero with frameIn := f }
  | .transmitSs f => .command 0x02 { OperandLines.zero with frameIn := f }
  | .abort => .command 0x03 OperandLines.zero
  | .tryReceive => .command 0x04 OperandLines.zero
  | .handleInterrupt => .command 0x05 OperandLines.zero
  | .setMode m => .command 0x06 { OperandLines.zero with modeIn := m }
  | .ackEvents => .command 0x07 OperandLines.zero
  | .readStatus => .command 0x08 OperandLines.zero
  | .reset => .command 0x09 OperandLines.zero
  | .encode f => .command 0x0A { OperandLines.zero with frameIn := f }
  | .decode img => .command 0x0B { OperandLines.zero with imageIn := img }
  | .decodeEcc b => .command 0x0C { OperandLines.zero with byteIn := b }
  | .decodeAlc b => .command 0x0D { OperandLines.zero with byteIn := b }
  | .classify sr ewlr rxerr txerr =>
    .command 0x0E { OperandLines.zero with clsSr := sr, clsEwlr := ewlr, clsRxerr := rxerr, clsTxerr := txerr }
  | .txReadback k => .command 0x0F { OperandLines.zero with indexIn := k }
  | .cmrTr => .cmr 0x01
  | .cmrSrr => .cmr 0x10
  | .cmrTrAt => .cmr 0x03
  | .cmrSrrAt => .cmr 0x12
  | .cmrAt => .cmr 0x02
  | .cmrRrb => .cmr 0x04
  | .cmrCdo => .cmr 0x08
  | .bufSff rtr unused dlc rest => .image (frameInfoByte false rtr unused dlc) rest
  | .bufEff rtr unused dlc rest => .image (frameInfoByte true rtr unused dlc) rest

/-- Whether the decoder accepts a packet. -/
def Packet.accepted (p : Packet) : Bool :=
  match decode p with
  | .ok _ => true
  | .error _ => false

/-- The packet a bare table word stands for. The word does not say its port, and the three ports read the same 8
bits differently, so the ports are tried in the table's order: a legal command word is a command; otherwise a CMR
command byte is that; otherwise the word is a frame-info byte. Everything above the word is zero (log 10). -/
def tablePacket (b : Byte) : Packet :=
  if (Packet.command b OperandLines.zero).accepted then .command b OperandLines.zero
  else if (Packet.cmr b).accepted then .cmr b
  else .image b (Vector.replicate 12 0)

/-- The instruction read from an instruction whose bits are `w` (every row of the table has 8 bits). -/
def decodeTableWord (nbits w : Nat) : Option Instr :=
  if nbits = 8 ∧ w < 256 then
    match decode (tablePacket (BitVec.ofNat 8 w)) with
    | .ok i => some i
    | .error _ => none
  else none

end Sys2Proof
end

