-- ==== Sys2Proof/Machine/Fetch.lean ====
section
/-! DEFINITION. What the next input asks of the machine, and placing a table word there. There is no program counter
and no fetch from memory (spec 10_state.md R22; log 1). -/

namespace Sys2Proof.Machine

/-- What the oldest input comes to. -/
inductive Fetched where
  /-- No input: the machine waits for the next command (spec 70_reset_and_hazards.md R340). -/
  | idle
  /-- An instruction, and the state it starts in. -/
  | run (i : Instr) (s : State)
  /-- An illegal command word (spec 30_encoding.md R95). -/
  | illegal (s : State)
  /-- An input that runs no instruction; the state after it. -/
  | quiet (s : State)
  /-- The controller meets a reserved byte in its CMR latch (spec 30_encoding.md R102). -/
  | reserved (b : Byte)

/-- An event at the controller; the CFC does not see it (spec 10_state.md R31). -/
def State.onEvent (s : State) (e : EnvEvent) : State :=
  s.withController (s.controller.onEvent s.params (Config.freeByte s.accesses) e)

/-- What a decoded packet comes to in `s`. -/
def fetchedOf (p : Packet) (s : State) : Fetched :=
  match decode p with
  | .ok i => .run i s
  | .error (.illegalCommand _) => .illegal s
  | .error (.reservedCmrByte b) => .reserved b

/-- The controller's turn: a requested reset is performed; else the oldest byte of its CMR latch is taken out and is
the instruction (spec 20_memory.md R66 (a), R71; 70_reset_and_hazards.md R341; log 8, 16). -/
def fetchLatch (s : State) : Fetched :=
  if s.controller.resetRequested then .quiet (s.withController Controller.reset)
  else
    match s.controller.latch with
    | [] => .quiet s
    | b :: bs => fetchedOf (.cmr b) (s.withController { s.controller with latch := bs })

/-- The platform's look at the interrupt line (spec 00_scope.md R7 (2); 60_exceptions.md R310; log 25). -/
def fetchPlatform (s : State) : Fetched :=
  if s.controller.interruptLine then .run .handleInterrupt s else .quiet s

/-- Taking the oldest input (spec 00_scope.md R8). -/
def fetch (s : State) : Fetched :=
  match s.inputs with
  | [] => .idle
  | .command word lines :: rest => fetchedOf (.command word lines) (s.withInputs rest)
  | .image info bytes :: rest => fetchedOf (.image info bytes) (s.withInputs rest)
  | .controller :: rest => fetchLatch (s.withInputs rest)
  | .platform :: rest => fetchPlatform (s.withInputs rest)
  | .environment e :: rest => .quiet ((s.withInputs rest).onEvent e)

/-- `s` with a packet placed so that the very next step runs it. -/
def State.place (s : State) (p : Packet) : State :=
  match p with
  | .command word lines => s.withInputs (.command word lines :: s.inputs)
  | .image info rest => s.withInputs (.image info rest :: s.inputs)
  | .cmr b =>
    (s.withController { s.controller with latch := b :: s.controller.latch, resetRequested := false }).withInputs
      (.controller :: s.inputs)

end Sys2Proof.Machine
end

