-- ==== Sys2Proof/Machine/Step.lean ====
section
/-! DEFINITION. One step: the oldest input, performed whole (spec 00_scope.md R8). -/

namespace Sys2Proof.Machine

/-- One step. With nothing lined up the machine waits and nothing changes (spec 70_reset_and_hazards.md R340). An
illegal command word returns ILLEGAL_COMMAND and changes nothing else (spec 30_encoding.md R95). -/
def step (s : State) : Host.Outcome State Fault Refusal :=
  match fetch s with
  | .idle => .next s
  | .run i t => exec i t
  | .illegal t => .next (t.respond .illegalCommand .none)
  | .quiet t => .next t
  | .reserved b => .refused (.cmrByteReserved b)

/-- `s` with the instruction of a table word placed as the next thing the machine does; every operand line and every
byte after the word is zero (log 1, 10). -/
def State.withFetchWord (s : State) (_nbits w : Nat) : State := s.place (tablePacket (BitVec.ofNat 8 w))

end Sys2Proof.Machine
end

