-- ==== Sys2Proof/Machine/Assembler.lean ====
section
/-! DEFINITION. The assembler syntax of the command port (spec 30_encoding.md R94): a line to its packet (log 23). -/

namespace Sys2Proof.Machine

/-- The pieces of a text between separators. -/
def splitChars (sep : Char) : List Char → List (List Char)
  | [] => [[]]
  | c :: cs =>
    if c = sep then [] :: splitChars sep cs
    else
      match splitChars sep cs with
      | [] => [[c]]
      | w :: ws => (c :: w) :: ws

/-- The sixteen digits of `0x` notation, by value, as the spec writes them (`0x1ABCDE`, spec 30_encoding.md R94). -/
def upperDigits : List Char := "0123456789ABCDEF".toList

/-- The value of one digit, below 16: its place among the digits; small letters are read too (log 23). -/
def digitValue (c : Char) : Option Nat := upperDigits.idxOf? c.toUpper

/-- The number a digit string continues to, from the value of the digits before. -/
def numberFrom (base acc : Nat) : List Char → Option Nat
  | [] => some acc
  | c :: cs =>
    match digitValue c with
    | some d => if d < base then numberFrom base (acc * base + d) cs else none
    | none => none

/-- A number, decimal or with `0x` hexadecimal (spec 00_scope.md R14). -/
def parseNumber : List Char → Option Nat
  | [] => none
  | ['0', 'x'] => none
  | '0' :: 'x' :: cs => numberFrom 16 0 cs
  | cs => numberFrom 10 0 cs

/-- A byte. -/
def parseByte (cs : List Char) : Option Byte :=
  match parseNumber cs with
  | some n => if n < 256 then some (BitVec.ofNat 8 n) else none
  | none => none

/-- Bytes separated by commas. -/
def parseBytes (cs : List Char) : Option (List Byte) := (splitChars ',' cs).mapM parseByte

/-- A bracketed list of bytes; `[]` is the empty one. -/
def parseBracketed : List Char → Option (List Byte)
  | ['[', ']'] => some []
  | '[' :: cs => if cs.getLast? = some ']' then parseBytes cs.dropLast else none
  | _ => none

/-- The format of a frame. -/
def parseFormat (cs : List Char) : Option FrameFormat :=
  if cs = ['S', 'T', 'D'] then some .std
  else if cs = ['E', 'X', 'T'] then some .ext
  else none

/-- The frame of its parsed parts; a length that does not fit 4 bits is no frame. -/
def frameOfParts (fmt : Option FrameFormat) (id : Option Nat) (rtr : Bool) (dlc : Option Nat)
    (data : Option (List Byte)) : Option Frame :=
  match fmt, id, dlc, data with
  | some fmt, some id, some dlc, some data =>
    if dlc < 16 then some { fmt := fmt, id := id, rtr := rtr, dlc := BitVec.ofNat 4 dlc, data := data } else none
  | _, _, _, _ => none

/-- `<fmt> <id> [RTR] <dlc> [<b0>,...,<bn>]`. -/
def parseFrame : List (List Char) → Option Frame
  | [fmt, id, rtr, dlc, data] =>
    if rtr = ['R', 'T', 'R'] then
      frameOfParts (parseFormat fmt) (parseNumber id) true (parseNumber dlc) (parseBracketed data)
    else none
  | [fmt, id, dlc, data] => frameOfParts (parseFormat fmt) (parseNumber id) false (parseNumber dlc) (parseBracketed data)
  | _ => none

/-- An image from a list of exactly 13 bytes. -/
def imageOfList (bs : List Byte) : Option Image :=
  if h : bs.toArray.size = 13 then some (Vector.mk bs.toArray h) else none

/-- The instruction of a mnemonic with its operand words. -/
def parseCommand (mnemonic : String) (ops : List (List Char)) : Option Instr :=
  match mnemonic, ops with
  | "TRANSMIT", ops => (parseFrame ops).map .transmit
  | "TRANSMIT_SS", ops => (parseFrame ops).map .transmitSs
  | "ABORT", [] => some .abort
  | "TRY_RECEIVE", [] => some .tryReceive
  | "HANDLE_INTERRUPT", [] => some .handleInterrupt
  | "SET_MODE", [m] => (parseByte m).map .setMode
  | "ACK_EVENTS", [] => some .ackEvents
  | "READ_STATUS", [] => some .readStatus
  | "RESET", [] => some .reset
  | "ENCODE", ops => (parseFrame ops).map .encode
  | "DECODE", [img] => ((parseBracketed img).bind imageOfList).map .decode
  | "DECODE_ECC", [b] => (parseByte b).map .decodeEcc
  | "DECODE_ALC", [b] => (parseByte b).map .decodeAlc
  | "CLASSIFY", [args] =>
    match parseBytes args with
    | some [sr, ewlr, rxerr, txerr] => some (.classify sr ewlr rxerr txerr)
    | _ => none
  | "TX_READBACK", [k] => (parseByte k).map .txReadback
  | _, _ => none

/-- The instruction of a line: the mnemonic, then the operands, one space between (spec 30_encoding.md R94). -/
def parseLine (line : String) : Option Instr :=
  match splitChars ' ' line.toList with
  | [] => none
  | mnemonic :: ops => parseCommand (String.ofList mnemonic) ops

/-- "The encoding of a line is its command word plus its operand values" (spec 30_encoding.md R94). -/
def assemble (line : String) : Option Packet := (parseLine line).map encode

end Sys2Proof.Machine
end

