-- ==== Sys2Proof/WellFormed.lean ====
section
/-! DEFINITION. Well-formedness of instructions: the operand checks the spec names. An instruction that fails its
check is still an instruction; it runs and returns the result code of the check (spec 60_exceptions.md R300, R304). -/

namespace Sys2Proof

/-- The operands of an instruction pass the checks of their formats: `WF(f)` for a transmitted or encoded frame
(spec 40_frame_codec.md R141), bits 7:5 for a mode byte, 0..12 for an index (spec 30_encoding.md R91). Every other
operand value is legal. -/
def Instr.wellFormed (i : Instr) : Bool :=
  match i with
  | .transmit f => Machine.frameWf f
  | .transmitSs f => Machine.frameWf f
  | .encode f => Machine.frameWf f
  | .setMode m => Machine.modeInLegal m
  | .txReadback k => Machine.indexLegal k
  | .abort => true
  | .tryReceive => true
  | .handleInterrupt => true
  | .ackEvents => true
  | .readStatus => true
  | .reset => true
  | .decode _ => true
  | .decodeEcc _ => true
  | .decodeAlc _ => true
  | .classify _ _ _ _ => true
  | .cmrTr => true
  | .cmrSrr => true
  | .cmrTrAt => true
  | .cmrSrrAt => true
  | .cmrAt => true
  | .cmrRrb => true
  | .cmrCdo => true
  | .bufSff _ _ _ _ => true
  | .bufEff _ _ _ _ => true

end Sys2Proof
end

