-- ==== Sys2Proof/Safety.lean ====
section
/-! DEFINITION. What counts as a safe run, in the terms the statements use: invariants of the state, the shape of what
an operation appends to the log, and which accesses an operation may make. -/

namespace Sys2Proof.Machine

/-! ### Invariants of the state -/

/-- The three invariants of spec 10_state.md R25: (I-a), (I-b), (I-c). -/
def State.healthConsistent (s : State) : Prop :=
  (s.status.errWarning = true ↔ s.busClass = .warning) ∧
  (s.status.errPassive = true ↔ s.busClass = .passive) ∧
  (s.busClass = .busOff → s.status.busOn = false ∧ s.mode.op = .reset)

/-- The controller's cells are in canonical form. -/
def State.memoryCanonical (s : State) : Prop := s.controller.regs.wf = true

/-! ### Log entries -/

/-- A register access, answered or not (spec 10_state.md R38). -/
def LogEntry.isAccess : LogEntry → Bool
  | .rd _ _ => true
  | .wr _ _ => true
  | .noResp _ => true
  | .sel => false
  | .desel => false
  | .pulse => false
  | .statusChange _ _ => false
  | .frameReceived _ => false
  | .txDone _ => false
  | .wakeUp => false

/-- An event of spec 00_scope.md R10, or the reset pulse: what stands outside a chip-select bracket. -/
def LogEntry.isOutside : LogEntry → Bool
  | .pulse => true
  | .statusChange _ _ => true
  | .frameReceived _ => true
  | .txDone _ => true
  | .wakeUp => true
  | .rd _ _ => false
  | .wr _ _ => false
  | .noResp _ => false
  | .sel => false
  | .desel => false

/-- A status-change event. -/
def LogEntry.isStatusChange : LogEntry → Bool
  | .statusChange _ _ => true
  | .sel => false
  | .desel => false
  | .rd _ _ => false
  | .wr _ _ => false
  | .noResp _ => false
  | .pulse => false
  | .frameReceived _ => false
  | .txDone _ => false
  | .wakeUp => false

/-- A register write. -/
def LogEntry.isWrite : LogEntry → Bool
  | .wr _ _ => true
  | .sel => false
  | .desel => false
  | .rd _ _ => false
  | .noResp _ => false
  | .pulse => false
  | .statusChange _ _ => false
  | .frameReceived _ => false
  | .txDone _ => false
  | .wakeUp => false

/-- Reading a log from a chip-select level on: the level after it, or none if an access stands outside a bracket, an
event or the pulse inside one, or a bracket is opened or closed twice (spec 20_memory.md R68). -/
def bracketFrom : Bool → List LogEntry → Option Bool
  | selected, [] => some selected
  | selected, e :: es =>
    match e with
    | .sel => if selected then none else bracketFrom true es
    | .desel => if selected then bracketFrom false es else none
    | e => if e.isAccess == selected then bracketFrom selected es else none

/-- Every access of the log lies inside a chip-select bracket, and every bracket is closed (spec 20_memory.md R68). -/
def State.logBracketed (s : State) : Prop := bracketFrom false s.log = some false

/-! ### Accesses -/

/-- The next `n` accesses are answered. -/
abbrev State.respondsFor (s : State) (n : Nat) : Prop := ∀ k < n, s.answerAt (s.accesses + k) ≠ .noresp

/-- TRANSMIT and TRANSMIT_SS pass every admission check (spec 41_transmit.md R170). -/
abbrev State.admitsTransmit (s : State) (f : Frame) : Prop :=
  s.devFault = false ∧ frameWf f = true ∧ s.busClass ≠ .busOff ∧ s.mode.op = .operating ∧ s.mode.lom = false ∧
    s.mode.sm = false ∧ s.status.txBusy = false

/-- The log entries of the buffer writes of a frame (spec 41_transmit.md R172). -/
def bufferWriteEntries (f : Frame) : List LogEntry := (txImage f).map fun p => .wr (BitVec.ofNat 7 (16 + p.1)) p.2

/-- The status-change event of an operation from `s` to `t`: one carrying the values after it if a flag or the class
changed, none otherwise (spec 44_block_control.md R290). -/
def statusChangeBetween (s t : State) : List LogEntry :=
  if t.status = s.status ∧ t.busClass = s.busClass then [] else [.statusChange t.statusWord t.busClass]

/-- Offsets an operation may read (spec 10_state.md R59). -/
def mayRead (i : Instr) (off : Nat) : Prop :=
  (i = .tryReceive ∧ (off = 2 ∨ (16 ≤ off ∧ off ≤ 28) ∨ off = 29)) ∨
  (i = .handleInterrupt ∧ (off = 2 ∨ off = 3 ∨ off = 11 ∨ off = 12 ∨ off = 13 ∨ off = 14 ∨ off = 15)) ∨
  ((∃ k, i = .txReadback k) ∧ 96 ≤ off ∧ off ≤ 108)

/-- Writes an operation may make: the transmit buffer, and at CMR exactly the bytes the table gives it
(spec 10_state.md R59; 30_encoding.md R100). -/
def mayWrite (i : Instr) (s : State) (off : Nat) (v : Byte) : Prop :=
  ((∃ f, i = .transmit f) ∧ ((16 ≤ off ∧ off ≤ 28) ∨ (off = 1 ∧ v = if s.mode.stm then 0x10 else 0x01))) ∨
  ((∃ f, i = .transmitSs f) ∧ ((16 ≤ off ∧ off ≤ 28) ∨ (off = 1 ∧ v = if s.mode.stm then 0x12 else 0x03))) ∨
  (i = .abort ∧ off = 1 ∧ v = 0x02) ∨
  (i = .tryReceive ∧ off = 1 ∧ (v = 0x04 ∨ v = 0x08))

/-! ### Effects stated for more than one instruction -/

/-- The first `n` buffer writes of a frame took effect from `c` to `d`, and no other cell changed. The byte at buffer
index `k` is stored where the register map puts a write at offset 16 + k. -/
def StoredBytes (f : Frame) (n : Nat) (c d : Controller) : Prop :=
  (∀ k b a, k < n → (k, b) ∈ txImage f → c.writeCell (BitVec.ofNat 7 (16 + k)) = some a → d.regs.read a = some b) ∧
  (∀ a, (∀ k b, k < n → (k, b) ∈ txImage f → c.writeCell (BitVec.ofNat 7 (16 + k)) ≠ some a) →
    d.regs.read a = c.regs.read a)

/-- The controller after one access of the log: an answered read or write has its side effects, an unanswered one none
(spec 20_memory.md R65, R66; log 15). `limit` is the error-passive limit. -/
def Controller.afterEntry (limit : Nat) (c : Controller) : LogEntry → Controller
  | .rd off v => c.afterRead off v
  | .wr off v => c.afterWrite limit off v
  | .noResp _ => c
  | .sel => c
  | .desel => c
  | .pulse => c
  | .statusChange _ _ => c
  | .frameReceived _ => c
  | .txDone _ => c
  | .wakeUp => c

/-- The controller after these entries of the log, in their order. -/
def Controller.afterEntries (limit : Nat) (c : Controller) (es : List LogEntry) : Controller :=
  es.foldl (Controller.afterEntry limit) c

/-- From `c` to `d` at most these register cells changed, and nothing else at the controller. -/
def Controller.ChangesOnly (c d : Controller) (cells : List Nat) : Prop :=
  d = { c with regs := d.regs } ∧ ∀ a, a ∉ cells → d.regs.read a = c.regs.read a

/-- The controller takes part in the bus: operating mode and not bus-off (spec 00_scope.md R18). -/
def Controller.OnBus (c : Controller) : Prop :=
  (c.shows 0 0).getLsbD 0 = false ∧ (c.shows 0 2).getLsbD 7 = false

/-- The controller can transmit: on the bus, not listen-only, not sleeping (spec 00_scope.md R18;
93_implementation_defined.md I24). -/
def Controller.CanTransmit (c : Controller) : Prop :=
  c.OnBus ∧ (c.shows 0 0).getLsbD 1 = false ∧ (c.shows 0 0).getLsbD 4 = false

/-- The controller is error-passive under this limit, short of bus-off (spec 00_scope.md R18). -/
def Controller.ErrorPassive (limit : Nat) (c : Controller) : Prop :=
  (c.shows 0 2).getLsbD 7 = false ∧ (limit ≤ (c.shows 0 14).toNat ∨ limit ≤ (c.shows 0 15).toNat)

/-- From `c` to `d` EI was raised exactly if it is enabled and SR.ES or SR.BS changed, EPI exactly if it is enabled and
the controller entered or left error-passive under this limit, and no other bit of IR changed (spec 10_state.md R44, R45;
log 28). -/
def Controller.RaisesErrorChanges (limit : Nat) (c d : Controller) : Prop :=
  ((d.cell 0 3).getLsbD 2 = true ↔ (c.cell 0 3).getLsbD 2 = true ∨ ((c.cell 0 4).getLsbD 2 = true ∧
    (d.statusRegister.getLsbD 6 ≠ c.statusRegister.getLsbD 6 ∨
      d.statusRegister.getLsbD 7 ≠ c.statusRegister.getLsbD 7))) ∧
  ((d.cell 0 3).getLsbD 5 = true ↔ (c.cell 0 3).getLsbD 5 = true ∨
    ((c.cell 0 4).getLsbD 5 = true ∧ ¬ (d.ErrorPassive limit ↔ c.ErrorPassive limit))) ∧
  d.cell 0 3 &&& 0xDB#8 = c.cell 0 3 &&& 0xDB#8

/-- From `s` to `t` the class, its two flags, `bus_on` and `mode.op` are as before. -/
def ClassKept (s t : State) : Prop :=
  (t.busClass, t.status.errWarning, t.status.errPassive, t.status.busOn, t.mode.op) =
    (s.busClass, s.status.errWarning, s.status.errPassive, s.status.busOn, s.mode.op)

/-- From `s` to `t` one classification of these four bytes was applied: bus-off takes the CFC off the bus and to reset
mode, nothing leaves the class BUS_OFF, and any other class sets the two flags (spec 43_status_decoder.md R240, R242). -/
def ClassApplied (sr ewlr rxerr txerr : Byte) (s t : State) : Prop :=
  let c := classify s.params sr ewlr rxerr txerr
  (t.busClass, t.status.errWarning, t.status.errPassive, t.status.busOn, t.mode.op) =
    if c = .busOff then (.busOff, false, false, false, .reset)
    else if s.busClass = .busOff then
      (s.busClass, s.status.errWarning, s.status.errPassive, s.status.busOn, s.mode.op)
    else (c, decide (c = .warning), decide (c = .passive), s.status.busOn, s.mode.op)

/-- What a transmission request with this command byte leaves (spec 41_transmit.md R172, R173), its frame with it: the
busy flag, the log, the result, the bytes stored; everything else as before. -/
def Transmitted (command : Byte) (f : Frame) (s t : State) : Prop :=
  t.status = { s.status with txBusy := true } ∧
  t.log = s.log ++ (.sel :: (bufferWriteEntries f ++
    [.wr 1 command, .desel, .statusChange t.statusWord t.busClass])) ∧
  t.response = some { result := .ok, outs := .none } ∧
  t.busClass = s.busClass ∧ t.mode = s.mode ∧ t.eccCap = s.eccCap ∧ t.alcCap = s.alcCap ∧ t.devFault = s.devFault ∧
  t.inputs = s.inputs ∧ t.answers = s.answers ∧ t.params = s.params ∧
  t.accesses = s.accesses + (txImage f).length + 1 ∧
  t.controller.latch = s.controller.latch ++ [command] ∧
  t.controller.fifoCount = s.controller.fifoCount ∧ t.controller.fifoEnd = s.controller.fifoEnd ∧
  t.controller.inFlight = s.controller.inFlight ∧
  t.controller.eccArmed = s.controller.eccArmed ∧ t.controller.alcArmed = s.controller.alcArmed ∧
  t.controller.resetRequested = s.controller.resetRequested ∧
  StoredBytes f (txImage f).length s.controller t.controller

/-- Whether two states agree in everything but the response. -/
def State.sameButResponse (s t : State) : Prop := t = { s with response := t.response }

end Sys2Proof.Machine
end

