-- ==== Sys2Proof/Certificates/Slice0/Obligations.lean ====
section
/-! DEFINITION. The statements for the provers. Each docstring names the rule of spec/ it formalises; a clause that
rests on a choice of the model names its log entry. -/

open Sys2Proof Sys2Proof.Machine

/-! ### Decoding, encoding, stepping -/

/-- 30_encoding.md R93 with R92: decoding is total over all 256 words; 0x01 to 0x0F decode to the operation of their
row with its operands, and the other 241 are illegal. -/
def Obligations.CommandDecodesExactlyFifteenWords : Prop :=
  ∀ (w : Byte) (l : OperandLines),
    ((1 ≤ w.toNat ∧ w.toNat ≤ 15) → ∃ i,
      [Instr.transmit l.frameIn, .transmitSs l.frameIn, .abort, .tryReceive, .handleInterrupt, .setMode l.modeIn,
        .ackEvents, .readStatus, .reset, .encode l.frameIn, .decode l.imageIn, .decodeEcc l.byteIn, .decodeAlc l.byteIn,
        .classify l.clsSr l.clsEwlr l.clsRxerr l.clsTxerr, .txReadback l.indexIn][w.toNat - 1]? = some i ∧
      decode (.command w l) = .ok i) ∧
    ((w.toNat = 0 ∨ 16 ≤ w.toNat) → decode (.command w l) = .error (.illegalCommand w))

/-- 30_encoding.md R92, R100, R110 (sanity): words of each port decode to the instruction of their row. -/
def Obligations.TableWordsDecode : Prop :=
  (∀ l : OperandLines,
    decode (.command 0x01 l) = .ok (.transmit l.frameIn) ∧ decode (.command 0x05 l) = .ok .handleInterrupt ∧
    decode (.command 0x06 l) = .ok (.setMode l.modeIn) ∧ decode (.command 0x0B l) = .ok (.decode l.imageIn) ∧
    decode (.command 0x0E l) = .ok (.classify l.clsSr l.clsEwlr l.clsRxerr l.clsTxerr)) ∧
  decode (.cmr 0x12) = .ok .cmrSrrAt ∧ decode (.cmr 0x08) = .ok .cmrCdo ∧
  (∀ rest, decode (.image 0x47 rest) = .ok (.bufSff true 0 7 rest)) ∧
  (∀ rest, decode (.image 0xB8 rest) = .ok (.bufEff false 3 8 rest))

/-- Decode and encode agree, both ways: every instruction is read back from its packet, with every operand; and a
packet that decodes has the word of the instruction it decodes to, so no bit of a word is dropped (30_encoding.md R90,
R92, R100, R110; log 10: each port has its own words). -/
def Obligations.DecodeAndEncodeAgree : Prop :=
  (∀ i : Instr, decode (encode i) = .ok i) ∧
  (∀ w l i, decode (.command w l) = .ok i → ∃ l', encode i = .command w l') ∧
  (∀ b i, decode (.cmr b) = .ok i → encode i = .cmr b) ∧
  (∀ info rest i, decode (.image info rest) = .ok i → encode i = .image info rest)

/-- A step runs the decoded instruction: a command, an image, or the oldest byte of the controller's latch; around it
the step takes the input (and the byte) away, and nothing else. Where nothing is lined up, the machine waits. The input
list and the latch are the model's (log 1, 8). -/
def Obligations.StepRunsTheDecodedInstruction : Prop :=
  ∀ (s : State) (i : Instr) (rest : List Input),
    (∀ w l, s.inputs = .command w l :: rest → decode (.command w l) = .ok i →
      step s = exec i { s with inputs := rest }) ∧
    (∀ info bytes, s.inputs = .image info bytes :: rest → decode (.image info bytes) = .ok i →
      step s = exec i { s with inputs := rest }) ∧
    (∀ b bs, s.inputs = .controller :: rest → s.controller.resetRequested = false → s.controller.latch = b :: bs →
      decode (.cmr b) = .ok i →
      step s = exec i { s with inputs := rest, controller := { s.controller with latch := bs } }) ∧
    (s.inputs = [] → step s = .next s)

/-- 30_encoding.md R95 (R292): an illegal word gives ILLEGAL_COMMAND and changes no state field, logs nothing. The
model's choice (log 11, after R102): on its turn the controller refuses a latched byte that is none of the seven
command bytes. -/
def Obligations.RejectedWordsRunNothing : Prop :=
  ∀ (s : State) (rest : List Input),
    (∀ (w : Byte) (l : OperandLines), s.inputs = .command w l :: rest → (w.toNat = 0 ∨ 16 ≤ w.toNat) →
      step s = .next { s with inputs := rest, response := some { result := .illegalCommand, outs := .none } }) ∧
    (∀ (b : Byte) (bs : List Byte), s.inputs = .controller :: rest → s.controller.resetRequested = false →
      s.controller.latch = b :: bs →
      b ∉ [0b00000001, 0b00000010, 0b00000011, 0b00000100, 0b00001000, 0b00010000, 0b00010010] →
      step s = .refused (.cmrByteReserved b))

/-! ### Frame codec -/

/-- 40_frame_codec.md R143: the bytes of `TxImage`, as numbers, with consecutive indices from 0. -/
def Obligations.TxImageListsTheLayout : Prop :=
  ∀ f : Frame, frameWf f = true →
    (txImage f).map Prod.fst = List.range (1 + (if f.fmt = .ext then 4 else 2) + (if f.rtr then 0 else f.dlc.toNat)) ∧
    (txImage f).length ≤ 13 ∧
    (txImage f).map (fun p => p.2.toNat) =
      ((if f.fmt = .ext then 128 else 0) + (if f.rtr then 64 else 0) + f.dlc.toNat) ::
      ((if f.fmt = .ext then [f.id / 2 ^ 21, f.id / 2 ^ 13 % 256, f.id / 2 ^ 5 % 256, f.id % 32 * 8]
        else [f.id / 8, f.id % 8 * 32]) ++ f.data.map BitVec.toNat)

/-- 40_frame_codec.md R156: decoding any image that holds the encoded bytes gives the frame back, whatever the other
slots hold. -/
def Obligations.FrameRoundTrip : Prop :=
  ∀ (f : Frame) (img : Image), frameWf f = true →
    (∀ k b, (k, b) ∈ txImage f → imageByte img k = b) → decodeImage img = f

/-- 40_frame_codec.md R157: the encoder is injective on well-formed frames. Encoding a decoded image does not give the
image back in three cases: ignored bits that are not zero (frame-info bits 5:4, the low bits of the last identifier
byte), a DLC above 8, and slots past the length, which the encoder leaves unwritten. -/
def Obligations.EncoderInjective : Prop :=
  (∀ f g : Frame, frameWf f = true → frameWf g = true → txImage f = txImage g → f = g) ∧
  (∀ img : Image,
    (imageByte img 0 &&& 0x30#8 ≠ 0 ∨
      imageByte img (idLength (imageByte img 0)) &&& (if (imageByte img 0).getLsbD 7 then 0x07#8 else 0x1F#8) ≠ 0 ∨
      8 < (imageByte img 0).toNat % 16) →
    ∃ k b, (k, b) ∈ txImage (decodeImage img) ∧ imageByte img k ≠ b) ∧
  (∀ (img : Image) (k : Nat) (b : Byte), imageLength (imageByte img 0) ≤ k → (k, b) ∉ txImage (decodeImage img))

/-- 40_frame_codec.md R155: every decoded frame is well-formed. -/
def Obligations.DecodedFrameIsWellFormed : Prop :=
  ∀ read : Nat → Byte, frameWf (decodeWith read) = true

/-- 30_encoding.md R134, receive side: unassigned bits and bytes past the last data byte do not change the frame. The
masks are: frame-info bits 5:4 out, the low bits of the last identifier byte out, everything past the image length
out. -/
def Obligations.DecoderIgnoresUnassignedBits : Prop :=
  ∀ img img' : Image,
    imageByte img 0 &&& 0xCF#8 = imageByte img' 0 &&& 0xCF#8 →
    (∀ k, 1 ≤ k → k < imageLength (imageByte img 0) → k ≠ idLength (imageByte img 0) →
      imageByte img k = imageByte img' k) →
    (imageByte img (idLength (imageByte img 0)) &&& (if (imageByte img 0).getLsbD 7 then 0xF8#8 else 0xE0#8) =
      imageByte img' (idLength (imageByte img 0)) &&& (if (imageByte img 0).getLsbD 7 then 0xF8#8 else 0xE0#8)) →
    decodeImage img = decodeImage img'

/-- 40_frame_codec.md R145: ENCODE fills exactly the slots of `TxImage` and changes nothing else, or refuses a frame
that is not well-formed. -/
def Obligations.EncodeCompletes : Prop :=
  ∀ (f : Frame) (s : State),
    (frameWf f = true → ∃ slots : Vector (Option Byte) 13,
      exec (.encode f) s = .next { s with response := some { result := .ok, outs := .image slots } } ∧
      ∀ (k : Nat) (hk : k < 13) (b : Byte), slots[k] = some b ↔ (k, b) ∈ txImage f) ∧
    (frameWf f = false →
      exec (.encode f) s = .next { s with response := some { result := .invalidFrame, outs := .none } })

/-- 40_frame_codec.md R148, R150, R152; 30_encoding.md R115: DECODE of any image returns OK and the frame whose fields
are these numbers, and changes nothing else. -/
def Obligations.DecodeCompletes : Prop :=
  ∀ (img : Image) (s : State), ∃ f : Frame,
    exec (.decode img) s = .next { s with response := some { result := .ok, outs := .frame (some f) } } ∧
    (f.fmt = .ext ↔ 128 ≤ (imageByte img 0).toNat) ∧
    (f.rtr = true ↔ (imageByte img 0).toNat / 64 % 2 = 1) ∧
    f.dlc.toNat = min ((imageByte img 0).toNat % 16) 8 ∧
    f.id = (if 128 ≤ (imageByte img 0).toNat then
        (imageByte img 1).toNat * 2 ^ 21 + (imageByte img 2).toNat * 2 ^ 13 + (imageByte img 3).toNat * 2 ^ 5
          + (imageByte img 4).toNat / 8
      else (imageByte img 1).toNat * 8 + (imageByte img 2).toNat / 32) ∧
    f.data = (if f.rtr then [] else (List.range f.dlc.toNat).map fun j =>
      imageByte img ((if 128 ≤ (imageByte img 0).toNat then 5 else 3) + j))

/-- The buffer formats, read as instructions (the model's choice, log 9): the frame has the format of the row and the
fields 30_encoding.md R110 to R114 give it from the frame-info fields and the bytes after, and nothing else changes. -/
def Obligations.BufferFormatsComplete : Prop :=
  ∀ (rtr : Bool) (unused : BitVec 2) (dlc : BitVec 4) (rest : Vector Byte 12) (s : State),
    exec (.bufSff rtr unused dlc rest) s = .next { s with response := some { result := .ok, outs := .frame (some
      { fmt := .std, id := rest[0].toNat * 8 + rest[1].toNat / 32, rtr := rtr,
        dlc := BitVec.ofNat 4 (min dlc.toNat 8),
        data := if rtr then [] else (rest.toList.drop 2).take (min dlc.toNat 8) }) } } ∧
    exec (.bufEff rtr unused dlc rest) s = .next { s with response := some { result := .ok, outs := .frame (some
      { fmt := .ext,
        id := rest[0].toNat * 2 ^ 21 + rest[1].toNat * 2 ^ 13 + rest[2].toNat * 2 ^ 5 + rest[3].toNat / 8, rtr := rtr,
        dlc := BitVec.ofNat 4 (min dlc.toNat 8),
        data := if rtr then [] else (rest.toList.drop 4).take (min dlc.toNat 8) }) } }

/-! ### Transmit -/

/-- 41_transmit.md R170: the admission checks in their order; each refusal changes nothing but the result. -/
def Obligations.TransmitRefusalsInOrder : Prop :=
  ∀ (f : Frame) (s : State) (i : Instr), (i = .transmit f ∨ i = .transmitSs f) →
    (s.devFault = true →
      exec i s = .next { s with response := some { result := .deviceNotResponding, outs := .none } }) ∧
    (s.devFault = false → frameWf f = false →
      exec i s = .next { s with response := some { result := .invalidFrame, outs := .none } }) ∧
    (s.devFault = false → frameWf f = true → s.busClass = .busOff →
      exec i s = .next { s with response := some { result := .busOff, outs := .none } }) ∧
    (s.devFault = false → frameWf f = true → s.busClass ≠ .busOff →
      (s.mode.op ≠ .operating ∨ s.mode.lom = true ∨ s.mode.sm = true) →
      exec i s = .next { s with response := some { result := .notOperating, outs := .none } }) ∧
    (s.devFault = false → frameWf f = true → s.busClass ≠ .busOff → s.mode.op = .operating → s.mode.lom = false →
      s.mode.sm = false → s.status.txBusy = true →
      exec i s = .next { s with response := some { result := .transmitBusy, outs := .none } })

/-- 41_transmit.md R172, R173: an admitted TRANSMIT, or TRANSMIT_SS, whose accesses are answered, with its whole frame:
the same buffer writes, and TR or SRR, with AT for the single shot. Where the bytes go at the controller is the model's
register map (log 4, 8). -/
def Obligations.TransmissionsComplete : Prop :=
  ∀ (f : Frame) (s : State), s.memoryCanonical → s.admitsTransmit f → s.respondsFor ((txImage f).length + 1) →
    (∃ t, exec (.transmit f) s = .next t ∧ Transmitted (if s.mode.stm then 0x10 else 0x01) f s t) ∧
    (∃ t, exec (.transmitSs f) s = .next t ∧ Transmitted (if s.mode.stm then 0x12 else 0x03) f s t)

/-- 41_transmit.md R172, corner cases: the first unanswered access of an admitted transmission ends it; `tx_busy`
stays 0 if a buffer write fails and is 1 if only the CMR write fails; the log and the fault are those of the exit
(00_scope.md R16), which keeps the writes before it: the first `n` bytes are stored where the register map puts them
(log 4), and nothing else changes. That the unanswered access itself leaves the controller as it was, a command byte at
CMR not latched, is the model's choice (log 15; the latch is log 8). -/
def Obligations.TransmitWithoutResponse : Prop :=
  ∀ (f : Frame) (s : State) (i : Instr) (n : Nat), (i = .transmit f ∨ i = .transmitSs f) → s.memoryCanonical →
    s.admitsTransmit f → n ≤ (txImage f).length → s.respondsFor n → s.answerAt (s.accesses + n) = .noresp →
    ∃ t, exec i s = .next t ∧
      t = { s with
        status := { s.status with txBusy := decide (n = (txImage f).length) },
        log := s.log ++ (.sel :: ((bufferWriteEntries f).take n ++
          [.noResp (if n = (txImage f).length then 1 else BitVec.ofNat 7 (16 + n)), .desel]
          ++ statusChangeBetween s t)),
        devFault := true, accesses := s.accesses + n + 1, controller := t.controller,
        response := some { result := .deviceNotResponding, outs := .none } } ∧
      t.controller = { s.controller with regs := t.controller.regs } ∧ StoredBytes f n s.controller t.controller

/-- 41_transmit.md R176: ABORT is refused while the fault is set; without a pending transmission it does nothing; with
one it writes AT and changes no flag, `tx_busy` included, or takes the exit if the write gets no response. The model's
choices: the byte waits in the controller's latch (log 8), and a write without response leaves the controller, its latch
included, as it was (log 15). -/
def Obligations.AbortCompletes : Prop :=
  ∀ s : State,
    (s.devFault = true →
      exec .abort s = .next { s with response := some { result := .deviceNotResponding, outs := .none } }) ∧
    (s.devFault = false → s.status.txBusy = false →
      exec .abort s = .next { s with response := some { result := .ok, outs := .none } }) ∧
    (s.devFault = false → s.status.txBusy = true → s.respondsFor 1 →
      exec .abort s = .next { s with
        log := s.log ++ [.sel, .wr 1 0x02, .desel], accesses := s.accesses + 1,
        controller := { s.controller with latch := s.controller.latch ++ [0x02] },
        response := some { result := .ok, outs := .none } }) ∧
    (s.devFault = false → s.status.txBusy = true → s.answerAt s.accesses = .noresp →
      exec .abort s = .next { s with
        log := s.log ++ [.sel, .noResp 1, .desel], accesses := s.accesses + 1, devFault := true,
        response := some { result := .deviceNotResponding, outs := .none } })

/-- 41_transmit.md R178: TX_READBACK is refused while the fault is set and for an index above 12; else it reads offset
96 + k once and returns the byte of the controller's answer, or takes the exit. -/
def Obligations.TxReadbackCompletes : Prop :=
  ∀ (k : Byte) (s : State),
    (s.devFault = true →
      exec (.txReadback k) s = .next { s with response := some { result := .deviceNotResponding, outs := .none } }) ∧
    (s.devFault = false → 12 < k.toNat →
      exec (.txReadback k) s = .next { s with response := some { result := .invalidOperand, outs := .none } }) ∧
    (s.devFault = false → k.toNat ≤ 12 → s.respondsFor 1 → ∃ v,
      exec (.txReadback k) s = .next { s with
        log := s.log ++ [.sel, .rd (BitVec.ofNat 7 (96 + k.toNat)) v, .desel], accesses := s.accesses + 1,
        response := some { result := .ok, outs := .byte v } } ∧
      ∀ w, s.answerAt s.accesses = .byte w → v = w) ∧
    (s.devFault = false → k.toNat ≤ 12 → s.answerAt s.accesses = .noresp →
      exec (.txReadback k) s = .next { s with
        log := s.log ++ [.sel, .noResp (BitVec.ofNat 7 (96 + k.toNat)), .desel], accesses := s.accesses + 1,
        devFault := true, response := some { result := .deviceNotResponding, outs := .none } })

/-- 41_transmit.md R171 (hazard H-TXB): while `tx_busy` is 1, no operation writes the transmit buffer. -/
def Obligations.NoBufferWriteWhileBusy : Prop :=
  ∀ (i : Instr) (s : State), s.status.txBusy = true →
    ∃ t seg, exec i s = .next t ∧ t.log = s.log ++ seg ∧
      ∀ off v, LogEntry.wr off v ∈ seg → ¬ (16 ≤ off.toNat ∧ off.toNat ≤ 28)

/-! ### Receive -/

/-- 42_receive.md R201: the two refusals of TRY_RECEIVE, without any access; in operating mode it is admitted, whatever
the sub-modes, so that an access follows. -/
def Obligations.TryReceiveRefusals : Prop :=
  ∀ s : State,
    (s.devFault = true →
      exec .tryReceive s = .next { s with response := some { result := .deviceNotResponding, outs := .none } }) ∧
    (s.devFault = false → s.mode.op ≠ .operating →
      exec .tryReceive s = .next { s with response := some { result := .notOperating, outs := .none } }) ∧
    (s.devFault = false → s.mode.op = .operating →
      ∃ t e seg, exec .tryReceive s = .next t ∧ t.log = s.log ++ .sel :: e :: seg ∧ e.isAccess = true)

/-- 42_receive.md R202: SR.RBS = 0 gives OK with no frame, clears message-waiting, and makes no other access. -/
def Obligations.TryReceiveFindsNothing : Prop :=
  ∀ (s : State) (sr : Byte), s.devFault = false → s.mode.op = .operating → s.readValue 2 = some sr →
    sr.getLsbD 0 = false →
    ∃ t, exec .tryReceive s = .next t ∧
      t = { s with
        status := { s.status with msgWaiting := false },
        log := s.log ++ ([.sel, .rd 2 sr, .desel] ++ statusChangeBetween s t),
        accesses := s.accesses + 1, response := some { result := .ok, outs := .frame none } }

/-- 42_receive.md R200 (R203 to R208): SR.RBS = 1, and every access that the drain makes is answered, as many as the
frame-info byte and the cached overrun flag call for. The frame's bytes are read in increasing order, then RMC, then
RRB is written, then CDO if the cached overrun flag was 1; the frame is returned and reported; message-waiting says
whether the count was above 1. Where access number `n` gets no response instead (00_scope.md R16; the SR read is
number 0), both flags are as before, but for a lost CDO write, which leaves the new message-waiting and `data_overrun`
at 1. Nothing else changes. The model's choices: at the controller the command bytes wait in the latch, so the FIFO
and SR.DOS are as before (log 8), and an access without response leaves the controller, its latch included, as it was
(log 15). -/
def Obligations.TryReceiveDrainsAMessage : Prop :=
  (∀ (s : State) (sr info : Byte), s.devFault = false → s.mode.op = .operating → s.readValue 2 = some sr →
    sr.getLsbD 0 = true → { s with accesses := s.accesses + 1 }.readValue 16 = some info →
    s.respondsFor (imageLength info + if s.status.dataOverrun then 4 else 3) →
    ∃ (t : State) (img : Image) (rmc : Byte), imageByte img 0 = info ∧ exec .tryReceive s = .next t ∧
      t.log = s.log ++ ([.sel, .rd 2 sr] ++
        (List.range (imageLength (imageByte img 0))).map (fun k => .rd (BitVec.ofNat 7 (16 + k)) (imageByte img k)) ++
        [.rd 29 rmc, .wr 1 0x04] ++ (if s.status.dataOverrun then [.wr 1 0x08] else []) ++
        [.desel, .frameReceived (decodeImage img)] ++ statusChangeBetween s t) ∧
      (∀ k v, k < imageLength (imageByte img 0) → s.answerAt (s.accesses + 1 + k) = .byte v → imageByte img k = v) ∧
      (∀ v, s.answerAt (s.accesses + 1 + imageLength (imageByte img 0)) = .byte v → rmc = v) ∧
      t.status = { s.status with
        msgWaiting := decide (1 < (rmc &&& s.params.rmcMask).toNat), dataOverrun := false } ∧
      t.response = some { result := .ok, outs := .frame (some (decodeImage img)) } ∧
      t = { s with status := t.status, log := t.log, response := t.response,
                   accesses := s.accesses + imageLength (imageByte img 0) + (if s.status.dataOverrun then 4 else 3),
                   controller := { s.controller with
                     latch := s.controller.latch ++ (0x04 :: if s.status.dataOverrun then [0x08] else []) } }) ∧
  (∀ (s : State) (sr info : Byte) (n : Nat), s.devFault = false → s.mode.op = .operating →
    (0 < n → s.readValue 2 = some sr ∧ sr.getLsbD 0 = true) →
    (1 < n → { s with accesses := s.accesses + 1 }.readValue 16 = some info) →
    s.respondsFor n → s.answerAt (s.accesses + n) = .noresp →
    let len := imageLength info
    n < len + (if s.status.dataOverrun then 4 else 3) →
    ∃ (t : State) (img : Image) (rmc : Byte), imageByte img 0 = info ∧ exec .tryReceive s = .next t ∧
      t = { s with
        status := if n = len + 3 then { s.status with msgWaiting := decide (1 < (rmc &&& s.params.rmcMask).toNat) }
          else s.status,
        log := s.log ++ (.sel :: ((.rd 2 sr ::
            ((List.range len).map (fun k => .rd (BitVec.ofNat 7 (16 + k)) (imageByte img k)) ++
              [.rd 29 rmc, .wr 1 0x04])).take n ++
          [.noResp (if n = 0 then 2 else if n ≤ len then BitVec.ofNat 7 (15 + n) else if n = len + 1 then 29 else 1),
            .desel] ++ statusChangeBetween s t)),
        devFault := true, accesses := s.accesses + n + 1,
        response := some { result := .deviceNotResponding, outs := .none },
        controller := { s.controller with
          latch := s.controller.latch ++ (if n = len + 3 then [0x04] else []) } })

/-- 42_receive.md R207 (hazard H-CDO): a CDO write always comes after the RRB write of the same operation. -/
def Obligations.OverrunAcknowledgedAfterRelease : Prop :=
  ∀ (i : Instr) (s : State), ∃ t seg, exec i s = .next t ∧ t.log = s.log ++ seg ∧
    ∀ pre post, seg = pre ++ .wr 1 0x08 :: post → LogEntry.wr 1 0x04 ∈ pre

/-- What the controller's register map shows is what TRY_RECEIVE returns (10_state.md R43, R52, R55; the model's
reading of an answer, log 4): where the controller answers the reads from its registers, and the writes, and its FIFO
holds a message, the frame is the one in the bytes that the receive buffer shows, and message-waiting says whether the
message counter, which counts modulo 32 (log 20), is above 1 under the mask. -/
def Obligations.TryReceiveReturnsTheOldestMessage : Prop :=
  ∀ (s : State) (img : Image), s.devFault = false → s.mode.op = .operating →
    (∀ k < imageLength (imageByte img 0) + 2, s.answerAt (s.accesses + k) = .held) →
    s.respondsFor (imageLength (imageByte img 0) + if s.status.dataOverrun then 4 else 3) →
    s.controller.inResetMode = false → 0 < s.controller.fifoCount →
    (∀ free, ∀ k < imageLength (imageByte img 0),
      s.controller.shows free (BitVec.ofNat 7 (16 + k)) = imageByte img k) →
    ∃ t, exec .tryReceive s = .next t ∧
      t.response = some { result := .ok, outs := .frame (some (decodeImage img)) } ∧
      t.status.msgWaiting =
        decide (1 < (BitVec.ofNat 8 (s.controller.fifoCount % 32) &&& s.params.rmcMask).toNat)

/-! ### Status decoder -/

/-- The table of 43_status_decoder.md R231. -/
def segmentTable : List (Nat × Segment) :=
  [(0x02, .id28to21), (0x03, .startOfFrame), (0x04, .srtrBit), (0x05, .ideBit), (0x06, .id20to18), (0x07, .id17to13),
   (0x08, .crcSequence), (0x09, .reservedBit0), (0x0A, .dataField), (0x0B, .dataLengthCode), (0x0C, .rtrBit),
   (0x0D, .reservedBit1), (0x0E, .id4to0), (0x0F, .id12to5), (0x11, .activeErrorFlag), (0x12, .intermission),
   (0x13, .tolerateDominantBits), (0x16, .passiveErrorFlag), (0x17, .errorDelimiter), (0x18, .crcDelimiter),
   (0x19, .ackSlot), (0x1A, .endOfFrame), (0x1B, .ackDelimiter), (0x1C, .overloadFlag)]

/-- 43_status_decoder.md R230, R231: DECODE_ECC of every byte, and nothing else changes. -/
def Obligations.DecodeEccCompletes : Prop :=
  ∀ (b : Byte) (s : State), ∃ errc dir seg,
    exec (.decodeEcc b) s = .next { s with
      response := some { result := .ok, outs := .ecc { errc := errc, dir := dir, seg := seg } } } ∧
    [ErrorCode.bit, .form, .stuff, .other][b.toNat / 64]? = some errc ∧
    dir = (if b.toNat / 32 % 2 = 0 then .tx else .rx) ∧
    seg = (segmentTable.lookup (b.toNat % 32)).getD (.reserved (BitVec.ofNat 5 b.toNat))

/-- 43_status_decoder.md R235: DECODE_ALC of every byte, and nothing else changes. -/
def Obligations.DecodeAlcCompletes : Prop :=
  ∀ (b : Byte) (s : State), ∃ field,
    exec (.decodeAlc b) s = .next { s with
      response := some { result := .ok, outs := .alc { bitno := BitVec.ofNat 5 b.toNat, field := field } } } ∧
    (b.toNat % 32 ≤ 10 → field = .idBit (28 - b.toNat % 32)) ∧
    (b.toNat % 32 = 11 → field = .rtrOrSrtr) ∧
    (b.toNat % 32 = 12 → field = .ide) ∧
    (13 ≤ b.toNat % 32 → b.toNat % 32 ≤ 30 → field = .idBit (30 - b.toNat % 32)) ∧
    (b.toNat % 32 = 31 → field = .rtr)

/-- 43_status_decoder.md R240: CLASSIFY under any parameters, and nothing else changes. -/
def Obligations.ClassifyCompletes : Prop :=
  ∀ (sr ewlr rxerr txerr : Byte) (s : State), ∃ c,
    exec (.classify sr ewlr rxerr txerr) s = .next { s with response := some { result := .ok, outs := .cls c } } ∧
    (c = .busOff ↔ 128 ≤ sr.toNat ∨ s.params.busOffTxerr ≤ txerr.toNat) ∧
    (c = .passive ↔ ¬ (128 ≤ sr.toNat ∨ s.params.busOffTxerr ≤ txerr.toNat) ∧
      (s.params.passiveLimit ≤ rxerr.toNat ∨ s.params.passiveLimit ≤ txerr.toNat)) ∧
    (c = .warning ↔ ¬ (128 ≤ sr.toNat ∨ s.params.busOffTxerr ≤ txerr.toNat) ∧
      ¬ (s.params.passiveLimit ≤ rxerr.toNat ∨ s.params.passiveLimit ≤ txerr.toNat) ∧
      (ewlr.toNat ≤ rxerr.toNat ∨ ewlr.toNat ≤ txerr.toNat))

/-- 43_status_decoder.md R245 (R246 to R253): HANDLE_INTERRUPT where the IR read and the reads that its snapshot calls
for are answered. The reads, their order, the flags, the captures, the classification of R242 and the events all
follow the one snapshot; nothing else changes. At the controller the reads have their side effects (20_memory.md R65;
60_exceptions.md R310; log 18): IR loses the bits it reported, and a read of ECC or ALC arms its capture again. -/
def Obligations.HandleInterruptCompletes : Prop :=
  ∀ (s : State) (ir : Byte), s.devFault = false → s.readValue 3 = some ir →
    let reads := 1 + (if ir.getLsbD 7 then 1 else 0) + (if ir.getLsbD 6 then 1 else 0) +
      (if ir.getLsbD 5 || ir.getLsbD 2 then 4 else 0) + (if ir.getLsbD 1 then 1 else 0)
    s.respondsFor reads →
    ∃ (t : State) (ecc alc sr ewlr rxerr txerr sr2 : Byte), exec .handleInterrupt s = .next t ∧
      t.accesses = s.accesses + reads ∧
      t.log = s.log ++ ([.sel, .rd 3 ir] ++ (if ir.getLsbD 7 then [.rd 12 ecc] else []) ++
        (if ir.getLsbD 6 then [.rd 11 alc] else []) ++
        (if ir.getLsbD 5 || ir.getLsbD 2 then [.rd 2 sr, .rd 13 ewlr, .rd 14 rxerr, .rd 15 txerr] else []) ++
        (if ir.getLsbD 1 then [.rd 2 sr2] else []) ++ [.desel] ++
        (if ir.getLsbD 1 then [.txDone (sr2.getLsbD 3)] else []) ++ (if ir.getLsbD 4 then [.wakeUp] else []) ++
        statusChangeBetween s t) ∧
      (∀ v, s.answerAt s.accesses = .byte v → ir = v) ∧
      t.status.initialized = s.status.initialized ∧
      t.status.dataOverrun = (s.status.dataOverrun || ir.getLsbD 3) ∧
      t.status.busError = (s.status.busError || ir.getLsbD 7) ∧
      t.status.arbLost = (s.status.arbLost || ir.getLsbD 6) ∧
      t.status.msgWaiting = (s.status.msgWaiting || ir.getLsbD 0) ∧
      t.status.txBusy = (s.status.txBusy && !ir.getLsbD 1) ∧
      t.eccCap = (if ir.getLsbD 7 then some ecc else s.eccCap) ∧
      t.alcCap = (if ir.getLsbD 6 then some alc else s.alcCap) ∧
      (if (ir.getLsbD 5 || ir.getLsbD 2) = true then ClassApplied sr ewlr rxerr txerr s t else ClassKept s t) ∧
      t.mode.lom = s.mode.lom ∧ t.mode.stm = s.mode.stm ∧ t.mode.sm = s.mode.sm ∧
      t.response = some { result := .ok, outs := .none } ∧ t.devFault = false ∧
      t.inputs = s.inputs ∧ t.answers = s.answers ∧ t.params = s.params ∧
      t.controller.fifoCount = s.controller.fifoCount ∧ t.controller.fifoEnd = s.controller.fifoEnd ∧
      t.controller.inFlight = s.controller.inFlight ∧
      t.controller.latch = s.controller.latch ∧ t.controller.resetRequested = s.controller.resetRequested ∧
      t.controller.eccArmed = (s.controller.eccArmed || ir.getLsbD 7) ∧
      t.controller.alcArmed = (s.controller.alcArmed || ir.getLsbD 6) ∧
      (∀ a, a ≠ 3 → t.controller.regs.read a = s.controller.regs.read a) ∧
      (s.memoryCanonical → t.controller.cell 0 3 = s.controller.cell 0 3 &&& ~~~ir)

/-- 43_status_decoder.md R245, corner case: an IR of 0x00 changes nothing but the log and the result; every register
cell reads as before. -/
def Obligations.SpuriousInterruptChangesNothing : Prop :=
  ∀ s : State, s.memoryCanonical → s.devFault = false → s.readValue 3 = some 0x00 →
    ∃ t, exec .handleInterrupt s = .next t ∧
      t = { s with log := s.log ++ [.sel, .rd 3 0x00, .desel], accesses := s.accesses + 1,
                   response := some { result := .ok, outs := .none }, controller := t.controller } ∧
      t.controller = { s.controller with regs := t.controller.regs } ∧
      ∀ a, t.controller.regs.read a = s.controller.regs.read a

/-- 43_status_decoder.md R254, R255: HANDLE_INTERRUPT accesses IR exactly once, as its first access, and writes no
register, whatever the controller answers. -/
def Obligations.InterruptReadsIrOnceAndWritesNothing : Prop :=
  ∀ s : State, s.devFault = false → ∃ t e seg, exec .handleInterrupt s = .next t ∧ t.log = s.log ++ .sel :: e :: seg ∧
    ((∃ v, e = .rd 3 v) ∨ e = .noResp 3) ∧ seg.any LogEntry.isWrite = false ∧
    (∀ v, LogEntry.rd 3 v ∉ seg) ∧ LogEntry.noResp 3 ∉ seg

/-- 43_status_decoder.md R245 (R246 to R251) and the exit of 00_scope.md R16 (60_exceptions.md R316): a dispatch whose
read number `n` after the IR read gets no response, or the IR read itself. What was written before that read stays, the
flag set just before it too: `data_overrun` and `bus_error`; `arb_lost` from the ALC read on; each capture once its read
is answered; the class only once all four of its reads are; `msg_waiting` at the TI read of SR. Nothing later is done:
`tx_busy` stays and no event but the status change comes. At the controller the answered reads have their side effects
(20_memory.md R65; log 18). That the unanswered read has none is the model's choice (log 15). -/
def Obligations.LostReadKeepsWhatWasWritten : Prop :=
  (∀ s : State, s.devFault = false → s.answerAt s.accesses = .noresp →
    exec .handleInterrupt s = .next { s with
      devFault := true, accesses := s.accesses + 1, log := s.log ++ [.sel, .noResp 3, .desel],
      response := some { result := .deviceNotResponding, outs := .none } }) ∧
  (∀ (s : State) (ir : Byte) (n : Nat), s.devFault = false → s.readValue 3 = some ir →
    let classifies := ir.getLsbD 5 || ir.getLsbD 2
    let alcAt := if ir.getLsbD 7 then 1 else 0
    let classAt := alcAt + if ir.getLsbD 6 then 1 else 0
    let transmitAt := classAt + if classifies then 4 else 0
    let offs : List Offset := (if ir.getLsbD 7 then [12] else []) ++ (if ir.getLsbD 6 then [11] else []) ++
      (if classifies then [2, 13, 14, 15] else []) ++ (if ir.getLsbD 1 then [2] else [])
    n < offs.length → s.respondsFor (n + 1) → s.answerAt (s.accesses + (n + 1)) = .noresp →
    ∃ (t : State) (ecc alc sr ewlr rxerr txerr : Byte), exec .handleInterrupt s = .next t ∧
      t.log = s.log ++ ([.sel, .rd 3 ir] ++ List.take n ((if ir.getLsbD 7 then [.rd 12 ecc] else []) ++
        (if ir.getLsbD 6 then [.rd 11 alc] else []) ++
        (if classifies then [.rd 2 sr, .rd 13 ewlr, .rd 14 rxerr, .rd 15 txerr] else [])) ++
        [.noResp (offs.getD n 0), .desel] ++ statusChangeBetween s t) ∧
      t.status.initialized = s.status.initialized ∧
      t.status.dataOverrun = (s.status.dataOverrun || ir.getLsbD 3) ∧
      t.status.busError = (s.status.busError || ir.getLsbD 7) ∧
      t.status.arbLost = (s.status.arbLost || (ir.getLsbD 6 && decide (alcAt ≤ n))) ∧
      t.status.msgWaiting = (s.status.msgWaiting || (ir.getLsbD 0 && decide (transmitAt ≤ n))) ∧
      t.status.txBusy = s.status.txBusy ∧
      t.eccCap = (if ir.getLsbD 7 && decide (alcAt ≤ n) then some ecc else s.eccCap) ∧
      t.alcCap = (if ir.getLsbD 6 && decide (classAt ≤ n) then some alc else s.alcCap) ∧
      (if (classifies && decide (transmitAt ≤ n)) = true then ClassApplied sr ewlr rxerr txerr s t else ClassKept s t) ∧
      t.mode.lom = s.mode.lom ∧ t.mode.stm = s.mode.stm ∧ t.mode.sm = s.mode.sm ∧
      t.response = some { result := .deviceNotResponding, outs := .none } ∧ t.devFault = true ∧
      t.accesses = s.accesses + n + 2 ∧ t.inputs = s.inputs ∧ t.answers = s.answers ∧ t.params = s.params ∧
      t.controller = { s.controller with
        regs := t.controller.regs, eccArmed := s.controller.eccArmed || (ir.getLsbD 7 && decide (alcAt ≤ n)),
        alcArmed := s.controller.alcArmed || (ir.getLsbD 6 && decide (classAt ≤ n)) } ∧
      (∀ a, a ≠ 3 → t.controller.regs.read a = s.controller.regs.read a) ∧
      (s.memoryCanonical → t.controller.cell 0 3 = s.controller.cell 0 3 &&& ~~~ir))

/-- 43_status_decoder.md R260: ACK_EVENTS, also while the device fault is set. -/
def Obligations.AckEventsCompletes : Prop :=
  ∀ s : State, ∃ t, exec .ackEvents s = .next t ∧
    t = { s with status := { s.status with arbLost := false, busError := false },
                 log := s.log ++ statusChangeBetween s t,
                 response := some { result := .ok, outs := .none } } ∧
    (s.status.arbLost = false → s.status.busError = false → t.log = s.log)

/-! ### Block control -/

/-- 44_block_control.md R280: SET_MODE, its two refusals and, with a legal byte, its whole effect and frame. -/
def Obligations.SetModeCompletes : Prop :=
  ∀ (m : Byte) (s : State),
    (s.devFault = true →
      exec (.setMode m) s = .next { s with response := some { result := .deviceNotResponding, outs := .none } }) ∧
    (s.devFault = false → 32 ≤ m.toNat →
      exec (.setMode m) s = .next { s with response := some { result := .invalidOperand, outs := .none } }) ∧
    (s.devFault = false → m.toNat < 32 →
      ∃ t, exec (.setMode m) s = .next t ∧
        t = { s with
          mode := { op := if m.getLsbD 0 then .reset else .operating, lom := m.getLsbD 1, stm := m.getLsbD 2,
                    sm := m.getLsbD 4 },
          status := { s.status with txBusy := false, busOn := !m.getLsbD 0,
                                    initialized := s.status.initialized || !m.getLsbD 0 },
          busClass := if m.getLsbD 0 = false ∧ s.busClass = .busOff then .active else s.busClass,
          log := s.log ++ statusChangeBetween s t,
          response := some { result := .ok, outs := .none } })

/-- 44_block_control.md R284 with 10_state.md R26: READ_STATUS returns the word and the mode byte bit by bit, and the
captures, and changes nothing else. -/
def Obligations.ReadStatusCompletes : Prop :=
  ∀ s : State, ∃ (word : BitVec 12) (mb : Byte),
    exec .readStatus s = .next { s with
      response := some { result := .ok, outs := .status word mb s.eccCap s.alcCap } } ∧
    word.toNat = s.status.initialized.toNat + 2 * s.status.msgWaiting.toNat + 4 * s.status.busOn.toNat
      + 8 * s.status.txBusy.toNat + 16 * s.status.errWarning.toNat + 32 * s.status.dataOverrun.toNat
      + 64 * s.status.errPassive.toNat + 128 * s.status.arbLost.toNat + 256 * s.status.busError.toNat
      + 512 * (match s.busClass with | .active => 0 | .warning => 1 | .passive => 2 | .busOff => 3)
      + 2048 * s.devFault.toNat ∧
    mb.toNat = (if s.mode.op = .reset then 1 else 0) + 2 * s.mode.lom.toNat + 4 * s.mode.stm.toNat
      + 16 * s.mode.sm.toNat

/-- 44_block_control.md R286 with 70_reset_and_hazards.md R340: construction and RESET give the same reset state of the
CFC, RESET from any state, the fault included; the log gains `Pulse` and nothing else, no status change; after reset the
machine waits for the next command. That the pulse leaves the controller as it was but for the pending request, its
FIFO, transmission and latch included, is the model's choice (log 16). -/
def Obligations.ResetCompletes : Prop :=
  State.reset.status = {
    initialized := false, msgWaiting := false, busOn := false, txBusy := false, errWarning := false,
    dataOverrun := false, errPassive := false, arbLost := false, busError := false } ∧
  State.reset.busClass = .active ∧ State.reset.mode = { op := .reset, lom := false, stm := false, sm := false } ∧
  State.reset.eccCap = none ∧ State.reset.alcCap = none ∧ State.reset.devFault = false ∧ State.reset.log = [] ∧
  step State.reset = .next State.reset ∧
  ∀ s : State, exec .reset s = .next { s with
    status := State.reset.status, busClass := State.reset.busClass, mode := State.reset.mode, eccCap := none,
    alcCap := none, devFault := false, log := s.log ++ [.pulse], response := some { result := .ok, outs := .none },
    controller := { s.controller with resetRequested := true } }

/-! ### The device fault and results -/

/-- 60_exceptions.md R303: while the fault is set, the seven operations are refused before any access; the pure
operations, READ_STATUS, ACK_EVENTS and RESET still run; only RESET clears the fault. -/
def Obligations.DeviceFaultRefusesAccess : Prop :=
  ∀ (s : State) (i : Instr), s.devFault = true →
    (((∃ f, i = .transmit f ∨ i = .transmitSs f) ∨ i = .abort ∨ i = .tryReceive ∨ i = .handleInterrupt ∨
        (∃ k, i = .txReadback k) ∨ (∃ m, i = .setMode m)) →
      exec i s = .next { s with response := some { result := .deviceNotResponding, outs := .none } }) ∧
    (((∃ f, i = .encode f) ∨ (∃ img, i = .decode img) ∨ (∃ b, i = .decodeEcc b ∨ i = .decodeAlc b) ∨
        (∃ a b c d, i = .classify a b c d) ∨ i = .readStatus ∨ i = .ackEvents ∨ i = .reset) →
      ∃ t r, exec i s = .next t ∧ t.response = some r ∧ r.result ≠ .deviceNotResponding) ∧
    ∃ t, exec i s = .next t ∧ (t.devFault = false ↔ i = .reset)

/-- 10_state.md R30 over whole steps: a step that clears the fault ran the command word of RESET. -/
def Obligations.OnlyResetClearsTheFault : Prop :=
  ∀ s t : State, step s = .next t → s.devFault = true → t.devFault = false →
    ∃ l rest, s.inputs = .command 0x09 l :: rest

/-- 00_scope.md R16: an access without response takes the exit: it is the last access, then the chip is deselected,
then at most the status change; the fault is set and the result is DEVICE_NOT_RESPONDING. An operation that was not
refused and reports DEVICE_NOT_RESPONDING came that way. -/
def Obligations.NoResponseTakesTheExit : Prop :=
  ∀ (i : Instr) (s : State), ∃ t seg, exec i s = .next t ∧ t.log = s.log ++ seg ∧
    ((∃ off, LogEntry.noResp off ∈ seg) →
      t.devFault = true ∧ t.response = some { result := .deviceNotResponding, outs := .none } ∧
      ∃ accs off, (∀ o, LogEntry.noResp o ∉ accs) ∧ accs.all LogEntry.isAccess = true ∧
        seg = .sel :: (accs ++ [.noResp off, .desel] ++ statusChangeBetween s t)) ∧
    (s.devFault = false → t.devFault = true → ∃ off, LogEntry.noResp off ∈ seg)

/-- 60_exceptions.md R301: an operation that returns a non-OK code other than DEVICE_NOT_RESPONDING leaves no state
change, no log entry and no event; DEVICE_NOT_RESPONDING either was such a refusal (R303) or records `NoResp` and the
fault. The seven CMR bytes are no operations and return no code. -/
def Obligations.RefusalsLeaveNoTrace : Prop :=
  ∀ (i : Instr) (s : State),
    i ∉ [Instr.cmrTr, .cmrSrr, .cmrTrAt, .cmrSrrAt, .cmrAt, .cmrRrb, .cmrCdo] →
    ∃ t r seg, exec i s = .next t ∧ t.response = some r ∧ t.log = s.log ++ seg ∧
      (r.result ≠ .ok → r.result ≠ .deviceNotResponding → s.sameButResponse t) ∧
      (r.result = .deviceNotResponding →
        (s.devFault = true ∧ s.sameButResponse t) ∨ (t.devFault = true ∧ ∃ off, LogEntry.noResp off ∈ seg))

/-! ### The command bytes at the controller (the model's reading, log 8) -/

/-- The seven command bytes (10_state.md R42; 30_encoding.md R100, R101; 42_receive.md R205; log 8, 24): a
transmission request is the transmission in progress from then on; AT marks the one in progress; RRB moves on to the
next message, if any, so that the count goes down and RBSA bits 5:0 (10_state.md R56) move past the bytes of the
message released (where the next one lies is presumed, log 27; its length is open where its first byte was never
written, log 13); CDO clears SR.DOS. Nothing else changes, no CFC field among it. The model's choices: a release keeps
RBSA bits 7:6 (log 26) and leaves IR.RI (log 18), and a request is taken whatever MOD.STM holds (log 24). -/
def Obligations.CmrCommandsComplete : Prop :=
  ∀ s : State, s.memoryCanonical →
    (exec .cmrTr s = .next { s with controller := { s.controller with
      inFlight := some { selfReception := false, singleShot := false, abortRequested := false } } } ∧
    exec .cmrSrr s = .next { s with controller := { s.controller with
      inFlight := some { selfReception := true, singleShot := false, abortRequested := false } } } ∧
    exec .cmrTrAt s = .next { s with controller := { s.controller with
      inFlight := some { selfReception := false, singleShot := true, abortRequested := false } } } ∧
    exec .cmrSrrAt s = .next { s with controller := { s.controller with
      inFlight := some { selfReception := true, singleShot := true, abortRequested := false } } }) ∧
    (∃ t, exec .cmrAt s = .next t ∧ t = { s with controller := { s.controller with inFlight := t.controller.inFlight } } ∧
      (s.controller.inFlight = none → t.controller.inFlight = none) ∧
      (∀ r, s.controller.inFlight = some r →
        t.controller.inFlight = some { r with abortRequested := true })) ∧
    (s.controller.fifoCount = 0 → exec .cmrRrb s = .next s) ∧
    (0 < s.controller.fifoCount → ∃ t, exec .cmrRrb s = .next t ∧
      t = { s with controller := { s.controller with
        regs := t.controller.regs, fifoCount := s.controller.fifoCount - 1 } } ∧
      (∀ a, a ≠ 30 → t.controller.regs.read a = s.controller.regs.read a) ∧
      ∃ info : Byte,
        (∀ w, s.controller.regs.read (32 + (s.controller.shows 0 30).toNat % 64) = some w → info = w) ∧
        (t.controller.shows 0 30).toNat % 64 = ((s.controller.shows 0 30).toNat + imageLength info) % 64 ∧
        (t.controller.shows 0 30).toNat / 64 = (s.controller.shows 0 30).toNat / 64) ∧
    (∃ t, exec .cmrCdo s = .next t ∧ t = { s with controller := t.controller } ∧
      s.controller.ChangesOnly t.controller [2] ∧
      t.controller.statusRegister = s.controller.statusRegister &&& 0xFD#8)

/-! ### The register window (the controller's side; log 4) -/

/-- What the register map shows of the controller (10_state.md R40, R43, R52 to R56). TS, in operating mode (1 exactly
while a transmission is in progress and the controller can transmit, 00_scope.md R18, 93_implementation_defined.md
I24) and in reset mode, and a request that waits in the latch are the model's choice and reading (log 14). SR: RBS,
TBS, TCS, TS and ES follow the FIFO, the transmission and the counters, the other bits are stored. RMC counts the
messages (modulo 32, log 20). Every other offset, but for 16-28 in operating mode, shows its own cell, and where that
holds nothing a value that the spec leaves open (log 13). In operating mode offsets 16-28 show the FIFO RAM from the
address in RBSA on, wrapping after its 64 bytes (presumed, log 27), the receive buffer, which no write to 16-28
changes; in reset mode 16-23 show ACR and AMR as written. -/
def Obligations.RegisterMapShowsTheController : Prop :=
  ∀ (c : Controller) (free : Byte),
    (c.shows free 2).getLsbD 0 = decide (0 < c.fifoCount) ∧
    ((c.shows free 2).getLsbD 2 = true ↔
      c.inFlight = none ∧ ∀ b ∈ c.latch, b.getLsbD 0 = false ∧ b.getLsbD 4 = false) ∧
    (c.shows free 2).getLsbD 3 = ((c.cell 0 2).getLsbD 3 && (c.shows free 2).getLsbD 2) ∧
    (c.inResetMode = false → ((c.shows free 2).getLsbD 5 = true ↔ c.inFlight ≠ none ∧ c.CanTransmit)) ∧
    ((c.shows free 2).getLsbD 6 = true ↔ (c.shows free 13).toNat ≤ (c.shows free 14).toNat ∨
      (c.shows free 13).toNat ≤ (c.shows free 15).toNat) ∧
    (∀ j ∈ [1, 4, 7], (c.shows free 2).getLsbD j = (c.cell 0 2).getLsbD j) ∧
    (c.shows free 29).toNat = c.fifoCount % 32 ∧
    (∀ off : Offset, off.toNat ∉ [2, 29] → (c.inResetMode = true ∨ off.toNat < 16 ∨ 28 < off.toNat) →
      c.shows free off = (c.regs.read off.toNat).getD free) ∧
    (∀ k ≤ 12, c.inResetMode = false → c.shows free (BitVec.ofNat 7 (16 + k)) =
      c.shows free (BitVec.ofNat 7 (32 + ((c.shows free 30).toNat + k) % 64))) ∧
    (∀ k ≤ 7, c.inResetMode = true → c.regs.read (16 + k) = some (c.shows free (BitVec.ofNat 7 (16 + k)))) ∧
    (∀ (limit j k : Nat) (v : Byte), c.regs.wf = true →
      (c.inResetMode = true → k ≤ 7 →
        (c.afterWrite limit (BitVec.ofNat 7 (16 + k)) v).shows free (BitVec.ofNat 7 (16 + k)) = v) ∧
      (c.inResetMode = false → j ≤ 12 → k ≤ 12 →
        (c.afterWrite limit (BitVec.ofNat 7 (16 + k)) v).shows free (BitVec.ofNat 7 (16 + j)) =
          c.shows free (BitVec.ofNat 7 (16 + j))))

/-- 10_state.md R58 with R53: in operating mode with nothing pending, a byte written at 16 + k is what 96 + k shows,
and no other cell changes; TX_READBACK returns it where the controller answers from its registers (log 4). -/
def Obligations.TxShadowShowsTheLastWrite : Prop :=
  ∀ (c : Controller) (limit k : Nat) (b free : Byte), c.regs.wf = true → c.inResetMode = false → c.txPending = false →
    k ≤ 12 →
    (c.afterWrite limit (BitVec.ofNat 7 (16 + k)) b).shows free (BitVec.ofNat 7 (96 + k)) = b ∧
    (∀ a, a ≠ 96 + k → (c.afterWrite limit (BitVec.ofNat 7 (16 + k)) b).regs.read a = c.regs.read a) ∧
    ∀ s : State, s.controller = c.afterWrite limit (BitVec.ofNat 7 (16 + k)) b → s.devFault = false →
      s.answerAt s.accesses = .held →
      ∃ t, exec (.txReadback (BitVec.ofNat 8 k)) s = .next t ∧ t.response = some { result := .ok, outs := .byte b }

/-- 20_memory.md R65: a read of IR clears the flags it reported and nothing else; a read of ECC or ALC arms its
capture; any other read has no side effect (log 18). -/
def Obligations.ReadSideEffects : Prop :=
  ∀ (c : Controller) (off : Offset) (v free : Byte), c.regs.wf = true →
    (off = 3 → (c.afterRead off v).cell free 3 = c.cell free 3 &&& ~~~v ∧
      (∀ a, a ≠ 3 → (c.afterRead off v).regs.read a = c.regs.read a) ∧
      c.afterRead off v = { c with regs := (c.afterRead off v).regs }) ∧
    (off = 12 → c.afterRead off v = { c with eccArmed := true }) ∧
    (off = 11 → c.afterRead off v = { c with alcArmed := true }) ∧
    (off ≠ 3 → off ≠ 11 → off ≠ 12 → c.afterRead off v = c)

/-- 20_memory.md R66 with the write columns of 10_state.md R40: a write to CMR is a command and keeps no value (the
latch is the model's, log 8); a buffer write while a transmission is pending is discarded; a write where the map has a
dash, or 24-28 in reset mode, changes nothing, in either mode. MOD keeps five bits (R41), IER and CDR take the value
in both modes, the registers writable in reset mode and the FIFO RAM take it there, and no other cell changes. EWLR,
RXERR and TXERR, which may raise interrupts, are another statement's; 9, the test register, is none's (log 22). The
model's choices: CDR bit 4 and RBSA bits 7:6 are stored like the others (log 26), 24-28 in reset mode store nothing
(log 22), a write of IER leaves IR as it is, so that enabling a source later raises nothing, RI too while a message
waits, and disabling one leaves its bit of IR (log 28), and a write of MOD, of MOD.RM too, leaves all else as it is:
the transmission in progress, the latch, the FIFO and IR (log 24). -/
def Obligations.WriteSideEffects : Prop :=
  ∀ (c : Controller) (limit : Nat) (v : Byte),
    c.afterWrite limit 1 v = { c with latch := c.latch ++ [v] } ∧
    (∀ k, k ≤ 12 → c.inResetMode = false → c.txPending = true →
      c.afterWrite limit (BitVec.ofNat 7 (16 + k)) v = c) ∧
    (∀ off : Offset, c.inResetMode = false → off.toNat ∉ [0, 1, 4, 9, 31] → ¬ (16 ≤ off.toNat ∧ off.toNat ≤ 28) →
      c.afterWrite limit off v = c) ∧
    (∀ off : Offset, c.inResetMode = true →
      (off.toNat ∈ [2, 3, 5, 10, 11, 12, 29] ∨ (24 ≤ off.toNat ∧ off.toNat ≤ 28) ∨ 96 ≤ off.toNat) →
      c.afterWrite limit off v = c) ∧
    (c.regs.wf = true → c.ChangesOnly (c.afterWrite limit 0 v) [0] ∧
      (c.afterWrite limit 0 v).regs.read 0 = some (v &&& 0x1F#8)) ∧
    (∀ off : Offset, c.regs.wf = true →
      (off.toNat ∈ [4, 31] ∨ (c.inResetMode = true ∧
        (off.toNat ∈ [6, 7, 8, 30] ∨ (16 ≤ off.toNat ∧ off.toNat ≤ 23) ∨ (32 ≤ off.toNat ∧ off.toNat ≤ 95)))) →
      c.ChangesOnly (c.afterWrite limit off v) [off.toNat] ∧
      (c.afterWrite limit off v).regs.read off.toNat = some v)

/-- Messages at the receive FIFO (10_state.md R32 (b), R43, R44, R52, R55, R56; where their bytes lie, and that 64
bytes fill it, is presumed, log 27; when they arrive and what they raise is the model's, log 17). Off the bus none
arrives (00_scope.md R18). On the bus one wakes a sleeping controller, which then receives it (the model's choice, log
17). One that fits is counted, raises RI, and its bytes go behind those waiting, wrapping at 64, with the RTR copy in
the last identifier byte (30_encoding.md R111, R112); one that does not is lost, with SR.DOS and DOI. It fits if it is
no longer than the room: all 64 bytes while no message waits, else those from the end of the messages waiting up to
the address in RBSA bits 5:0. RI and DOI are raised only if IER enables them (R45, log 28). Of two messages into an
empty FIFO the receive buffer shows the first, and after a release the second, with RBSA at its address. -/
def Obligations.MessagesQueueInTheFifo : Prop :=
  ∀ (c : Controller) (p : Config.Params) (free : Nat → Byte) (x y : Image), c.regs.wf = true →
    let len (z : Image) := imageLength (imageByte z 0)
    let got (z : Image) (k : Nat) : Byte :=
      if (imageByte z 0).getLsbD 7 = false ∧ k = 2 then
        imageByte z k &&& 0xEF#8 ||| (if (imageByte z 0).getLsbD 6 then 0x10#8 else 0x00#8)
      else if (imageByte z 0).getLsbD 7 = true ∧ k = 4 then
        imageByte z k &&& 0xFB#8 ||| (if (imageByte z 0).getLsbD 6 then 0x04#8 else 0x00#8)
      else imageByte z k
    let sleeping := (c.shows 0 0).getLsbD 4
    let buffer := (c.shows 0 30).toNat % 64
    let start := if c.fifoCount = 0 then buffer else c.fifoEnd.toNat
    let room := if c.fifoCount = 0 then 64 else (buffer + 64 - c.fifoEnd.toNat) % 64
    let d := c.onEvent p free (.message x)
    let e := d.onEvent p free (.message y)
    let f := e.releaseReceiveBuffer free
    (¬ c.OnBus → d = c) ∧
    (c.OnBus → sleeping = true → d = (c.onEvent p free .wakeUp).onEvent p free (.message x)) ∧
    (c.OnBus → sleeping = false → len x ≤ room →
      d = { c with regs := d.regs, fifoCount := c.fifoCount + 1, fifoEnd := d.fifoEnd } ∧
      d.fifoEnd.toNat = (start + len x) % 64 ∧ d.cell 0 3 = c.cell 0 3 ||| (0x01#8 &&& c.cell 0 4) ∧
      (∀ k < len x, d.regs.read (32 + (start + k) % 64) = some (got x k)) ∧
      (∀ a, a ≠ 3 → (∀ k < len x, a ≠ 32 + (start + k) % 64) → d.regs.read a = c.regs.read a)) ∧
    (c.OnBus → sleeping = false → room < len x → c.ChangesOnly d [2, 3] ∧
      d.statusRegister = c.statusRegister ||| 0x02#8 ∧ d.cell 0 3 = c.cell 0 3 ||| (0x08#8 &&& c.cell 0 4)) ∧
    (c.OnBus → c.fifoCount = 0 →
      e.messageCount = 2 ∧ (∀ b, ∀ k < len x, e.shows b (BitVec.ofNat 7 (16 + k)) = got x k) ∧
      f.messageCount = 1 ∧ (∀ b, ∀ k < len y, f.shows b (BitVec.ofNat 7 (16 + k)) = got y k) ∧
      e.shows 0 30 = c.shows 0 30 ∧ (f.shows 0 30).toNat % 64 = ((c.shows 0 30).toNat + len x) % 64)

/-- The end of a transmission at the controller (10_state.md R32 (a), R43, R44; 70_reset_and_hazards.md R352;
00_scope.md R18; 93_implementation_defined.md I24; 30_encoding.md R101; log 17, 24). It shows in SR.TCS and SR.TS,
releases the buffer and raises TI if IER enables it (R45, log 28); where another request waits in the latch the buffer
is not released and TI not raised. Nothing happens with none in progress, and nothing completes where the controller
cannot transmit. No event raises TI with the buffer not released. A completed self-reception delivers the transmit
buffer as a message, but for the bits that the receive layout ignores (30_encoding.md R110 to R112; they are open, log
13). A failed attempt, which takes a controller that can transmit, ends a single-shot or aborted transmission, and no
other; a sleeping controller wakes first (log 17). The model's choices: a self-received message enters whatever the
acceptance filter holds (log 17), and all this holds whatever MOD.STM is (log 24). -/
def Obligations.TransmissionEndsReleaseTheBuffer : Prop :=
  ∀ (c : Controller) (p : Config.Params) (free : Nat → Byte), c.regs.wf = true →
    (∀ done, c.inFlight = none → c.onEvent p free (.transmitEnd done) = c) ∧
    (¬ c.CanTransmit → c.onEvent p free (.transmitEnd true) = c) ∧
    (∀ r done, c.inFlight = some r → (done = true → c.CanTransmit ∧ r.selfReception = false) →
      let d := c.onEvent p free (.transmitEnd done)
      { c with inFlight := none }.ChangesOnly d [2, 3] ∧ d.statusRegister.getLsbD 5 = false ∧
      (c.latch.any requestsTransmission = false → d.statusRegister.getLsbD 2 = true ∧
        d.statusRegister.getLsbD 3 = done ∧ d.cell 0 3 = c.cell 0 3 ||| (0x02#8 &&& c.cell 0 4)) ∧
      (c.latch.any requestsTransmission = true → d.statusRegister.getLsbD 2 = false ∧ d.cell 0 3 = c.cell 0 3)) ∧
    (∀ e, ((c.onEvent p free e).cell 0 3).getLsbD 1 = true → (c.cell 0 3).getLsbD 1 = false →
      (c.onEvent p free e).statusRegister.getLsbD 2 = true) ∧
    (∀ r, c.inFlight = some r → r.selfReception = true → c.CanTransmit → ∃ img,
      (let extended := (c.cell (free 96) 96).getLsbD 7
       ∀ k ≤ 12, (imageByte img k ^^^ c.cell (free (96 + k)) (96 + k)) &&&
        (if k = 0 then 0xCF#8 else if extended = false ∧ k = 2 then 0xE0#8 else
          if extended = true ∧ k = 4 then 0xF8#8 else 0xFF#8) = 0x00#8) ∧
      c.onEvent p free (.transmitEnd true) =
        { c.onEvent p free (.message img) with inFlight := some { r with selfReception := false } }.onEvent p free
          (.transmitEnd true)) ∧
    (∀ r e, c.inFlight = some r → ((∃ v, e = .arbLostCapture v) ∨ ∃ v, e = .busErrorCapture v ∧ v.getLsbD 5 = false) →
      let d := { { c with inFlight := none }.onEvent p free e with inFlight := some r }
      (c.CanTransmit → (r.singleShot = true ∨ r.abortRequested = true) →
        c.onEvent p free e = d.onEvent p free (.transmitEnd false)) ∧
      ((c.OnBus → (c.shows 0 0).getLsbD 4 = false) →
        ¬ (c.CanTransmit ∧ (r.singleShot = true ∨ r.abortRequested = true)) → c.onEvent p free e = d) ∧
      (c.OnBus → (c.shows 0 0).getLsbD 4 = true →
        c.onEvent p free e = (c.onEvent p free .wakeUp).onEvent p free e))

/-- Errors, counters, captures and wake-up at the controller (10_state.md R43 to R45, R48 to R51; 00_scope.md R18; log
17). No event sets a bit of IR that IER does not enable, so with IER never armed TI is never seen
(70_reset_and_hazards.md R346; log 28); the interrupts below are raised where enabled. New counters and bus status, and a
new value of SR, EWLR, RXERR or TXERR, by an event or (but for SR) a write in reset mode, raise EI and EPI exactly if
what they report changed; any other stored register but IR takes its value (CDR bit 4 and RBSA bits 7:6 too, log 26)
and raises nothing. The model's choices: a value of SR raises no DOI, and bus-off may end in any mode (log 17);
entering bus-off keeps MOD and the transmission in progress (log 24). On the bus a bus error raises BEI and an
arbitration loss ALI (with no transmission in progress and in listen-only mode too, log 24), and each is captured only
if its capture is armed, which it then is no longer; off the bus there is none. Bus activity while sleeping raises WUI
and clears MOD.SM, and else does nothing; a bus error or an arbitration loss is bus activity too, which wakes a
sleeping controller first (log 17). What a failed attempt does besides is another statement's. -/
def Obligations.ErrorEventsRaiseTheirInterrupts : Prop :=
  ∀ (c : Controller) (p : Config.Params) (free : Nat → Byte), c.regs.wf = true →
    (∀ e j, (c.cell 0 4).getLsbD j = false → (c.cell 0 3).getLsbD j = false →
      ((c.onEvent p free e).cell 0 3).getLsbD j = false) ∧
    (∀ rxerr txerr busOff,
      let d := c.onEvent p free (.errorCounters rxerr txerr busOff)
      c.ChangesOnly d [2, 3, 14, 15] ∧ d.regs.read 14 = some rxerr ∧ d.regs.read 15 = some txerr ∧
      d.cell 0 2 = (if busOff then c.cell 0 2 ||| 0x80#8 else c.cell 0 2 &&& 0x7F#8) ∧
      d.statusRegister.getLsbD 7 = busOff ∧ d.statusRegister &&& 0x1F#8 = c.statusRegister &&& 0x1F#8 ∧
      c.RaisesErrorChanges p.passiveLimit d) ∧
    (∀ (off : Offset) (v : Byte), off.toNat ∈ [2, 13, 14, 15] →
      let d := c.onEvent p free (.register off v)
      c.ChangesOnly d [off.toNat, 3] ∧ d.regs.read off.toNat = some v ∧ c.RaisesErrorChanges p.passiveLimit d ∧
      (off.toNat ≠ 2 → c.inResetMode = true → c.afterWrite p.passiveLimit off v = d)) ∧
    (∀ (off : Offset) (v : Byte), isStored off.toNat = true → off.toNat ∉ [2, 3, 13, 14, 15] →
      c.ChangesOnly (c.onEvent p free (.register off v)) [off.toNat] ∧
      (c.onEvent p free (.register off v)).regs.read off.toNat =
        some (if off.toNat = 0 ∨ off.toNat = 11 then v &&& 0x1F#8 else v)) ∧
    (∀ v, ¬ c.OnBus → c.onEvent p free (.busErrorCapture v) = c ∧ c.onEvent p free (.arbLostCapture v) = c) ∧
    (∀ v, c.OnBus → (c.cell 0 0).getLsbD 4 = true →
      c.onEvent p free (.busErrorCapture v) = (c.onEvent p free .wakeUp).onEvent p free (.busErrorCapture v) ∧
      c.onEvent p free (.arbLostCapture v) = (c.onEvent p free .wakeUp).onEvent p free (.arbLostCapture v)) ∧
    (∀ v, c.OnBus → (c.cell 0 0).getLsbD 4 = false → (c.inFlight = none ∨ v.getLsbD 5 = true) →
      let d := c.onEvent p free (.busErrorCapture v)
      { c with eccArmed := false }.ChangesOnly d [3, 12] ∧ d.cell 0 3 = c.cell 0 3 ||| (0x80#8 &&& c.cell 0 4) ∧
      d.regs.read 12 = if c.eccArmed then some v else c.regs.read 12) ∧
    (∀ v, c.OnBus → (c.cell 0 0).getLsbD 4 = false → c.inFlight = none →
      let d := c.onEvent p free (.arbLostCapture v)
      { c with alcArmed := false }.ChangesOnly d [3, 11] ∧ d.cell 0 3 = c.cell 0 3 ||| (0x40#8 &&& c.cell 0 4) ∧
      d.regs.read 11 = if c.alcArmed then some (v &&& 0x1F#8) else c.regs.read 11) ∧
    (let d := c.onEvent p free .wakeUp
     if (c.cell 0 0).getLsbD 4 then
       c.ChangesOnly d [0, 3] ∧ d.cell 0 3 = c.cell 0 3 ||| (0x10#8 &&& c.cell 0 4) ∧
         d.cell 0 0 = c.cell 0 0 &&& 0x0F#8
     else d = c)

/-- 60_exceptions.md R310 (log 25): on the platform's look, HANDLE_INTERRUPT runs exactly if an enabled source is
pending. -/
def Obligations.PlatformDeliversPendingInterrupts : Prop :=
  ∀ (s : State) (rest : List Input), s.inputs = .platform :: rest →
    ((∃ j < 8, (s.controller.cell 0 3).getLsbD j = true ∧ (s.controller.cell 0 4).getLsbD j = true) →
      step s = exec .handleInterrupt { s with inputs := rest }) ∧
    ((∀ j < 8, ¬ ((s.controller.cell 0 3).getLsbD j = true ∧ (s.controller.cell 0 4).getLsbD j = true)) →
      step s = .next { s with inputs := rest })

/-- What happens at the controller, and what the controller does on its turn, changes no field of the CFC, nor its log
or response (10_state.md R31). A step that takes an event is the controller after that event; a turn with nothing latched
and no reset requested only passes; a reset pulse pends until the controller's turn and then resets the controller
(logs 13, 16, 17). -/
def Obligations.ControllerActsWithoutTheCfc : Prop :=
  (∀ (s t : State) (rest : List Input),
    ((∃ e, s.inputs = .environment e :: rest) ∨ s.inputs = .controller :: rest) → step s = .next t →
    t = { s with inputs := rest, controller := t.controller }) ∧
  (∀ (s : State) (rest : List Input) (e : EnvEvent), s.inputs = .environment e :: rest →
    step s = .next { s with
      inputs := rest, controller := s.controller.onEvent s.params (Config.freeByte s.accesses) e }) ∧
  (∀ (s : State) (rest : List Input), s.inputs = .controller :: rest → s.controller.resetRequested = false →
    s.controller.latch = [] → step s = .next { s with inputs := rest }) ∧
  (∀ s : State, ∃ t, exec .reset s = .next t ∧ t.controller.resetRequested = true) ∧
  (∀ (s : State) (rest : List Input), s.inputs = .controller :: rest → s.controller.resetRequested = true →
    step s = .next { s with inputs := rest, controller := Controller.reset })

/-! ### Rules over every instruction and every step -/

/-- 10_state.md R25: every step keeps the three invariants of the bus health. -/
def Obligations.StepKeepsHealthConsistent : Prop :=
  ∀ s t : State, s.healthConsistent → step s = .next t → t.healthConsistent

/-- Every step keeps the controller's cells in canonical form. -/
def Obligations.StepKeepsMemoryCanonical : Prop :=
  ∀ s t : State, s.memoryCanonical → step s = .next t → t.memoryCanonical

/-- 20_memory.md R68 as an invariant: every step keeps every access of the log inside a closed bracket. -/
def Obligations.StepKeepsLogBracketed : Prop :=
  ∀ s t : State, s.logBracketed → step s = .next t → t.logBracketed

/-- The three invariants hold at reset, and the controller's registers have the values of 70_reset_and_hazards.md R341
there and after its own hardware reset: what is unspecified in the RAM and the transmit buffer is a free value. The
model's choices: 0x00 where R341 leaves a register unspecified (log 12), armed captures (log 19), and nothing in
progress, latched or requested (log 8, 16, 24). -/
def Obligations.ResetMeetsTheInvariants : Prop :=
  State.reset.healthConsistent ∧ State.reset.memoryCanonical ∧ State.reset.logBracketed ∧
  (∀ (c : Controller) (p : Config.Params) (free : Nat → Byte),
    c.onEvent p free .hardwareReset = State.reset.controller) ∧
  (∀ free : Byte,
    let at_ (n : Nat) := State.reset.controller.shows free (BitVec.ofNat 7 n)
    at_ 0 = 0x01 ∧ at_ 2 = 0x3C ∧ at_ 3 = 0x00 ∧ at_ 4 = 0x00 ∧ at_ 11 = 0x00 ∧ at_ 12 = 0x00 ∧ at_ 13 = 0x60 ∧
    at_ 14 = 0x00 ∧ at_ 15 = 0x00 ∧ at_ 29 = 0x00 ∧ at_ 30 = 0x00 ∧
    (∀ n, 32 ≤ n → n ≤ 108 → at_ n = free) ∧
    at_ 6 = 0x00 ∧ at_ 7 = 0x00 ∧ at_ 8 = 0x00 ∧ at_ 31 = 0x00 ∧ (∀ n, 16 ≤ n → n ≤ 23 → at_ n = 0x00)) ∧
  State.reset.controller.eccArmed = true ∧ State.reset.controller.alcArmed = true ∧
  State.reset.controller.inFlight = none ∧ State.reset.controller.latch = [] ∧
  State.reset.controller.resetRequested = false

/-- 20_memory.md R68: exactly one Select and one Deselect around the accesses of an operation that makes any, none in
one that makes none. -/
def Obligations.OperationsBracketTheirAccesses : Prop :=
  ∀ (i : Instr) (s : State), ∃ t seg, exec i s = .next t ∧ t.log = s.log ++ seg ∧
    ((∃ accs evs, accs ≠ [] ∧ accs.all LogEntry.isAccess = true ∧ evs.all LogEntry.isOutside = true ∧
        seg = .sel :: (accs ++ .desel :: evs)) ∨
      seg.all LogEntry.isOutside = true)

/-- 10_state.md R59 with 30_encoding.md R100: which operation accesses which offset, and the command bytes each writes;
no other access is ever made. -/
def Obligations.AccessMatrix : Prop :=
  ∀ (i : Instr) (s : State), ∃ t seg, exec i s = .next t ∧ t.log = s.log ++ seg ∧
    (∀ off v, LogEntry.rd off v ∈ seg → mayRead i off.toNat) ∧
    (∀ off v, LogEntry.wr off v ∈ seg → mayWrite i s off.toNat v) ∧
    (∀ off, LogEntry.noResp off ∈ seg → mayRead i off.toNat ∨ ∃ v, mayWrite i s off.toNat v)

/-- 20_memory.md R69, R70: the k-th access of an operation gets the k-th answer of the controller: a byte read is the
byte answered, an access is logged as without response exactly where the answer was none, and nothing else is counted.
Where the controller answers from its registers, the byte read is what the register map shows then, after the side
effects of the accesses before (R65, R66; the model's reading of an answer, log 4; open contents are free values, log
13). Nothing but these side effects happens at the controller during an operation, a reset request apart; an access
without response has none (log 15). -/
def Obligations.EveryAccessGetsItsAnswer : Prop :=
  ∀ (i : Instr) (s : State), ∃ t seg, exec i s = .next t ∧ t.log = s.log ++ seg ∧
    let accs := seg.filter LogEntry.isAccess
    let controllerAfter (n : Nat) := s.controller.afterEntries s.params.passiveLimit (accs.take n)
    t.accesses = s.accesses + accs.length ∧
    (∀ (k : Nat) (e : LogEntry), accs[k]? = some e →
      (∀ off v w, e = .rd off v → s.answerAt (s.accesses + k) = .byte w → v = w) ∧
      (∀ off v, e = .rd off v → s.answerAt (s.accesses + k) = .held →
        v = (controllerAfter k).shows (Config.freeByte (s.accesses + k) off.toNat) off) ∧
      ((∃ off, e = .noResp off) ↔ s.answerAt (s.accesses + k) = .noresp)) ∧
    (i ∉ [Instr.reset, .cmrTr, .cmrSrr, .cmrTrAt, .cmrSrrAt, .cmrAt, .cmrRrb, .cmrCdo] →
      t.controller = controllerAfter accs.length)

/-- 44_block_control.md R290: an operation other than RESET emits exactly one status change, last and with the current
values, if a flag or the class changed, and none otherwise; RESET emits none. -/
def Obligations.StatusChangeExactlyWhenChanged : Prop :=
  ∀ (i : Instr) (s : State), ∃ t seg, exec i s = .next t ∧
    (i ≠ .reset → t.log = s.log ++ seg ++ statusChangeBetween s t) ∧
    (i = .reset → t.log = s.log ++ seg) ∧ seg.any LogEntry.isStatusChange = false

/-- 10_state.md R24: the writers of each flag. No other instruction sets or clears it. -/
def Obligations.FlagWriters : Prop :=
  ∀ (i : Instr) (s : State), ∃ t, exec i s = .next t ∧
    (s.status.initialized = false → t.status.initialized = true → ∃ m, i = .setMode m ∧ m.getLsbD 0 = false) ∧
    (s.status.initialized = true → t.status.initialized = false → i = .reset) ∧
    (s.status.msgWaiting = false → t.status.msgWaiting = true → i = .handleInterrupt ∨ i = .tryReceive) ∧
    (s.status.msgWaiting = true → t.status.msgWaiting = false → i = .tryReceive ∨ i = .reset) ∧
    (s.status.busOn = false → t.status.busOn = true → ∃ m, i = .setMode m ∧ m.getLsbD 0 = false) ∧
    (s.status.busOn = true → t.status.busOn = false →
      (∃ m, i = .setMode m ∧ m.getLsbD 0 = true) ∨ i = .handleInterrupt ∨ i = .reset) ∧
    (s.status.txBusy = false → t.status.txBusy = true → ∃ f, i = .transmit f ∨ i = .transmitSs f) ∧
    (s.status.txBusy = true → t.status.txBusy = false → i = .handleInterrupt ∨ (∃ m, i = .setMode m) ∨ i = .reset) ∧
    (s.status.errWarning = false → t.status.errWarning = true → i = .handleInterrupt) ∧
    (s.status.errWarning = true → t.status.errWarning = false →
      i = .handleInterrupt ∨ (∃ m, i = .setMode m) ∨ i = .reset) ∧
    (s.status.dataOverrun = false → t.status.dataOverrun = true → i = .handleInterrupt) ∧
    (s.status.dataOverrun = true → t.status.dataOverrun = false → i = .tryReceive ∨ i = .reset) ∧
    (s.status.errPassive = false → t.status.errPassive = true → i = .handleInterrupt) ∧
    (s.status.errPassive = true → t.status.errPassive = false →
      i = .handleInterrupt ∨ (∃ m, i = .setMode m) ∨ i = .reset) ∧
    (s.status.arbLost = false → t.status.arbLost = true → i = .handleInterrupt) ∧
    (s.status.arbLost = true → t.status.arbLost = false → i = .ackEvents ∨ i = .reset) ∧
    (s.status.busError = false → t.status.busError = true → i = .handleInterrupt) ∧
    (s.status.busError = true → t.status.busError = false → i = .ackEvents ∨ i = .reset)

/-- 10_state.md R27, R28, R29 (60_exceptions.md R320): the three ways the class changes, where a dispatch never leaves
BUS_OFF; and who changes the mode view and the captures, where a dispatch changes only `mode.op`, to RESET, on bus-off. -/
def Obligations.ClassModeAndCaptureWriters : Prop :=
  ∀ (i : Instr) (s : State), ∃ t, exec i s = .next t ∧
    (t.busClass ≠ s.busClass →
      (i = .handleInterrupt ∧ s.busClass ≠ .busOff) ∨
      ((∃ m, i = .setMode m ∧ m.getLsbD 0 = false) ∧ s.busClass = .busOff ∧ t.busClass = .active) ∨
      (i = .reset ∧ t.busClass = .active)) ∧
    (t.mode ≠ s.mode →
      (∃ m, i = .setMode m) ∨ i = .reset ∨
      (i = .handleInterrupt ∧ t.busClass = .busOff ∧ t.mode = { s.mode with op := .reset })) ∧
    (t.eccCap ≠ s.eccCap → (i = .handleInterrupt ∧ t.eccCap ≠ none) ∨ (i = .reset ∧ t.eccCap = none)) ∧
    (t.alcCap ≠ s.alcCap → (i = .handleInterrupt ∧ t.alcCap ≠ none) ∨ (i = .reset ∧ t.alcCap = none))

/-- 10_state.md R20 (`log`), R38: no step takes an entry of the log away; and no step changes the parameters or the
fixed answers (00_scope.md R12; log 3, 5). -/
def Obligations.LogOnlyGrows : Prop :=
  ∀ s t : State, step s = .next t →
    s.log <+: t.log ∧ t.params = s.params ∧ t.answers = s.answers ∧ s.accesses ≤ t.accesses
end

