-- ==== Sys2Proof/Laws/Memory.lean ====
section
/-! SUPPORT. Laws of the register cells: reading what was written, and the canonical form. -/

namespace Sys2Proof.Machine

@[simp] theorem Memory.read_nil (a : Nat) : Memory.read [] a = resetByte a := rfl

theorem Memory.read_consCell (b : Nat) (v : Byte) (m : Memory) (a : Nat) (h : m.read b = resetByte b) :
    (Memory.consCell b v m).read a = if a = b then some v else m.read a := by
  unfold Memory.consCell
  split
  · rename_i hv
    split
    · rename_i hab; subst hab; rw [h, hv]
    · rfl
  · rfl

/-- In canonical form, a cell below every listed address is not listed. -/
theorem Memory.read_of_all_gt (m : Memory) (a : Nat) (h : m.all (fun c => decide (a < c.1)) = true) :
    m.read a = resetByte a := by
  induction m with
  | nil => rfl
  | cons c m ih =>
    obtain ⟨b, w⟩ := c
    simp only [List.all_cons, Bool.and_eq_true, decide_eq_true_eq] at h
    have : a ≠ b := by omega
    simpa [Memory.read, this] using ih h.2

theorem Memory.wf_cons {a : Nat} {v : Byte} {m : Memory} :
    Memory.wf ((a, v) :: m) = true ↔
      a < 128 ∧ resetByte a ≠ some v ∧ m.all (fun c => decide (a < c.1)) = true ∧ m.wf = true := by
  simp [Memory.wf, and_assoc]

/-- Reading a written memory: the value written at that cell, the old contents elsewhere. -/
theorem Memory.read_write (m : Memory) (h : m.wf = true) (b : Nat) (v : Byte) (a : Nat) :
    (m.write b v).read a = if a = b then some v else m.read a := by
  induction m with
  | nil => exact Memory.read_consCell b v [] a rfl
  | cons c m ih =>
    obtain ⟨d, w⟩ := c
    obtain ⟨-, -, hall, hm⟩ := Memory.wf_cons.mp h
    unfold Memory.write
    split
    · rename_i hlt
      refine Memory.read_consCell b v _ a (Memory.read_of_all_gt _ _ ?_)
      simp only [List.all_cons, Bool.and_eq_true, decide_eq_true_eq, List.all_eq_true] at hall ⊢
      exact ⟨hlt, fun x hx => lt_trans hlt (hall x hx)⟩
    · split
      · rename_i hbd
        subst hbd
        rw [Memory.read_consCell b v m a (Memory.read_of_all_gt _ _ hall)]
        by_cases hab : a = b <;> simp [Memory.read, hab]
      · rename_i hbd
        by_cases had : a = d
        · have : a ≠ b := by omega
          subst had
          simp [Memory.read, this]
        · simp [Memory.read, had, ih hm]

theorem Memory.consCell_wf {a : Nat} {v : Byte} {m : Memory} (ha : a < 128)
    (hall : m.all (fun c => decide (a < c.1)) = true) (hm : m.wf = true) : (Memory.consCell a v m).wf = true := by
  unfold Memory.consCell
  split
  · exact hm
  · rename_i hv; exact Memory.wf_cons.mpr ⟨ha, hv, hall, hm⟩

theorem Memory.consCell_all {a x : Nat} {v : Byte} {m : Memory} (hx : x < a)
    (hm : m.all (fun c => decide (x < c.1)) = true) : (Memory.consCell a v m).all (fun c => decide (x < c.1)) = true := by
  unfold Memory.consCell
  split
  · exact hm
  · simp only [List.all_cons, Bool.and_eq_true, decide_eq_true_eq]; exact ⟨hx, hm⟩

theorem Memory.write_all {b x : Nat} {v : Byte} {m : Memory} (hx : x < b)
    (hm : m.all (fun c => decide (x < c.1)) = true) : (m.write b v).all (fun c => decide (x < c.1)) = true := by
  induction m with
  | nil => exact Memory.consCell_all hx hm
  | cons c m ih =>
    obtain ⟨d, w⟩ := c
    have hm' := hm
    simp only [List.all_cons, Bool.and_eq_true, decide_eq_true_eq] at hm'
    unfold Memory.write
    split
    · exact Memory.consCell_all hx hm
    · split
      · exact Memory.consCell_all hx hm'.2
      · simp only [List.all_cons, Bool.and_eq_true, decide_eq_true_eq]; exact ⟨hm'.1, ih hm'.2⟩

/-- Writing a cell of the window keeps the canonical form. -/
theorem Memory.write_wf {b : Nat} {v : Byte} {m : Memory} (hb : b < 128) (h : m.wf = true) : (m.write b v).wf = true := by
  induction m with
  | nil => exact Memory.consCell_wf hb rfl rfl
  | cons c m ih =>
    obtain ⟨d, w⟩ := c
    obtain ⟨hd, hdv, hall, hm⟩ := Memory.wf_cons.mp h
    unfold Memory.write
    split
    · rename_i hlt
      refine Memory.consCell_wf hb ?_ h
      simp only [List.all_cons, Bool.and_eq_true, decide_eq_true_eq, List.all_eq_true] at hall ⊢
      exact ⟨hlt, fun x hx => lt_trans hlt (hall x hx)⟩
    · split
      · rename_i hbd; subst hbd; exact Memory.consCell_wf hb hall hm
      · exact Memory.wf_cons.mpr ⟨hd, hdv, Memory.write_all (by omega) hall, ih hm⟩

end Sys2Proof.Machine
end

