-- ==== Sys2Proof/Laws/Controller.lean ====
section
/-! SUPPORT. What the operations of the controller do to its register cells, said once: setting a cell, raising an
interrupt, storing a message, and that each keeps the canonical form. -/

namespace Sys2Proof.Machine

/-! ### Reading a cell -/

/-- A register with a reset value always holds a byte. -/
theorem Memory.read_isSome (m : Memory) {a : Nat} (h : (resetByte a).isSome = true) : (m.read a).isSome = true := by
  induction m with
  | nil => exact h
  | cons c m ih =>
    obtain ⟨b, w⟩ := c
    unfold Memory.read
    split
    · rfl
    · exact ih

/-- What stands for an unwritten cell does not matter where the register has a reset value. -/
theorem Controller.cell_free (c : Controller) {a : Nat} (h : (resetByte a).isSome = true) (x y : Byte) :
    c.cell x a = c.cell y a := by
  obtain ⟨v, hv⟩ := Option.isSome_iff_exists.mp (Memory.read_isSome c.regs h)
  simp [Controller.cell, hv]

/-- The same, as a read of the memory. -/
theorem Controller.read_eq_cell (c : Controller) {a : Nat} (h : (resetByte a).isSome = true) (x : Byte) :
    c.regs.read a = some (c.cell x a) := by
  obtain ⟨v, hv⟩ := Option.isSome_iff_exists.mp (Memory.read_isSome c.regs h)
  simp [Controller.cell, hv]

/-- A cell depends on its memory read alone. -/
theorem Controller.cell_congr {c d : Controller} {a : Nat} (h : d.regs.read a = c.regs.read a) (free : Byte) :
    d.cell free a = c.cell free a := by
  simp [Controller.cell, h]

/-! ### Setting a cell -/

@[simp] theorem Controller.setCell_fifoCount (c : Controller) (a : Nat) (v : Byte) :
    (c.setCell a v).fifoCount = c.fifoCount := rfl
@[simp] theorem Controller.setCell_fifoEnd (c : Controller) (a : Nat) (v : Byte) :
    (c.setCell a v).fifoEnd = c.fifoEnd := rfl
@[simp] theorem Controller.setCell_inFlight (c : Controller) (a : Nat) (v : Byte) :
    (c.setCell a v).inFlight = c.inFlight := rfl
@[simp] theorem Controller.setCell_latch (c : Controller) (a : Nat) (v : Byte) :
    (c.setCell a v).latch = c.latch := rfl
@[simp] theorem Controller.setCell_txPending (c : Controller) (a : Nat) (v : Byte) :
    (c.setCell a v).txPending = c.txPending := rfl

theorem Controller.setCell_eq (c : Controller) (a : Nat) (v : Byte) :
    c.setCell a v = { c with regs := (c.setCell a v).regs } := rfl

/-- Setting a cell: its stored bits there, the old contents elsewhere. -/
theorem Controller.setCell_read {c : Controller} (h : c.regs.wf = true) (b : Nat) (v : Byte) (a : Nat) :
    (c.setCell b v).regs.read a = if a = b then some (v &&& registerMask b) else c.regs.read a :=
  Memory.read_write c.regs h b _ a

theorem Controller.setCell_cell {c : Controller} (h : c.regs.wf = true) (b : Nat) (v free : Byte) (a : Nat) :
    (c.setCell b v).cell free a = if a = b then v &&& registerMask b else c.cell free a := by
  unfold Controller.cell
  rw [Controller.setCell_read h]
  split <;> rfl

theorem Controller.setCell_wf {c : Controller} (h : c.regs.wf = true) {b : Nat} (hb : b < 128) (v : Byte) :
    (c.setCell b v).regs.wf = true := Memory.write_wf hb h

/-- Every register but MOD and ALC keeps all eight bits. -/
theorem registerMask_full {a : Nat} (h : a ≠ 0) (g : a ≠ 11) (v : Byte) : v &&& registerMask a = v := by
  simp only [registerMask, h, g, or_self, if_false]
  exact BitVec.and_allOnes

/-! ### SR -/

theorem getLsbD_append_ofBool {n : Nat} (x : BitVec n) (b : Bool) (j : Nat) :
    (x ++ BitVec.ofBool b).getLsbD j = if j = 0 then b else x.getLsbD (j - 1) := by
  rw [BitVec.getLsbD_append]
  cases j with
  | zero => cases b <;> rfl
  | succ j => simp

/-- What each bit of SR says. -/
theorem Controller.statusRegister_getLsbD (c : Controller) :
    c.statusRegister.getLsbD 0 = decide (0 < c.fifoCount) ∧ c.statusRegister.getLsbD 1 = (c.cell 0 2).getLsbD 1 ∧
    c.statusRegister.getLsbD 2 = !c.txPending ∧ c.statusRegister.getLsbD 3 = c.transmissionComplete ∧
    c.statusRegister.getLsbD 4 = (c.cell 0 2).getLsbD 4 ∧ c.statusRegister.getLsbD 5 = c.transmitting ∧
    c.statusRegister.getLsbD 6 = c.errorStatus ∧ c.statusRegister.getLsbD 7 = c.busStatus := by
  simp only [Controller.statusRegister, getLsbD_append_ofBool, Nat.reduceSub, if_true, if_false,
    OfNat.ofNat_ne_zero, one_ne_zero, Nat.sub_self, true_and]
  cases c.busStatus <;> rfl

/-! ### Raising an interrupt -/

theorem Controller.raise_eq (c : Controller) (bits : Byte) : c.raise bits = { c with regs := (c.raise bits).regs } := rfl

theorem Controller.raise_read {c : Controller} (h : c.regs.wf = true) (bits : Byte) (a : Nat) :
    (c.raise bits).regs.read a = if a = 3 then some (c.cell 0 3 ||| (bits &&& c.cell 0 4)) else c.regs.read a := by
  unfold Controller.raise
  rw [Controller.setCell_read h, registerMask_full (by decide) (by decide)]

theorem Controller.raise_cell {c : Controller} (h : c.regs.wf = true) (bits free : Byte) (a : Nat) :
    (c.raise bits).cell free a = if a = 3 then c.cell 0 3 ||| (bits &&& c.cell 0 4) else c.cell free a := by
  unfold Controller.cell
  rw [Controller.raise_read h]
  split <;> rfl

theorem Controller.raise_wf {c : Controller} (h : c.regs.wf = true) (bits : Byte) : (c.raise bits).regs.wf = true :=
  Controller.setCell_wf h (by decide) _

/-- What EI and EPI report depends on SR, EWLR and the counters alone. -/
theorem Controller.raise_errorStatus {c : Controller} (h : c.regs.wf = true) (bits : Byte) :
    (c.raise bits).errorStatus = c.errorStatus ∧ (c.raise bits).busStatus = c.busStatus ∧
      ∀ limit, (c.raise bits).isPassive limit = c.isPassive limit := by
  simp [Controller.errorStatus, Controller.busStatus, Controller.isPassive, Controller.raise_cell h]

/-- Raising an interrupt leaves SR as it was. -/
theorem Controller.raise_statusRegister {c : Controller} (h : c.regs.wf = true) (bits : Byte) :
    (c.raise bits).statusRegister = c.statusRegister := by
  obtain ⟨h1, h2, -⟩ := Controller.raise_errorStatus h bits
  unfold Controller.statusRegister
  rw [h1, h2]
  simp only [Controller.transmitting, Controller.transmissionComplete, Controller.inResetMode, Controller.mayTransmit,
    Controller.onBus, Controller.isSleeping, h2, Controller.raise_cell h]
  rfl

/-- The interrupts of an error change: what IR reads after, and that only IR changes. -/
theorem Controller.raiseErrorChanges_spec (b : Controller) {c : Controller} (h : c.regs.wf = true) (limit : Nat) :
    (b.raiseErrorChanges c limit).regs.wf = true ∧
    b.raiseErrorChanges c limit = { c with regs := (b.raiseErrorChanges c limit).regs } ∧
    (∀ a, a ≠ 3 → (b.raiseErrorChanges c limit).regs.read a = c.regs.read a) ∧
    (b.raiseErrorChanges c limit).cell 0 3 = c.cell 0 3
      ||| ((if c.errorStatus = b.errorStatus ∧ c.busStatus = b.busStatus then 0x00#8 else 0x04#8) &&& c.cell 0 4)
      ||| ((if c.isPassive limit = b.isPassive limit then 0x00#8 else 0x20#8) &&& c.cell 0 4) ∧
    (b.raiseErrorChanges c limit).statusRegister = c.statusRegister := by
  have w := fun bits => Controller.raise_wf h bits
  unfold Controller.raiseErrorChanges
  by_cases h1 : c.errorStatus = b.errorStatus ∧ c.busStatus = b.busStatus <;>
    by_cases h2 : c.isPassive limit = b.isPassive limit <;>
    simp only [h1, h2, and_self, if_true, if_false]
  · exact ⟨h, trivial, fun _ _ => trivial, by simp, trivial⟩
  · exact ⟨w _, rfl, fun a ha => by simp [Controller.raise_read h, ha], by simp [Controller.raise_cell h],
      Controller.raise_statusRegister h _⟩
  · exact ⟨w _, rfl, fun a ha => by simp [Controller.raise_read h, ha], by simp [Controller.raise_cell h],
      Controller.raise_statusRegister h _⟩
  · exact ⟨Controller.raise_wf (w _) _, rfl,
      fun a ha => by simp [Controller.raise_read h, Controller.raise_read (w _), ha],
      by simp [Controller.raise_cell h, Controller.raise_cell (w _)],
      by rw [Controller.raise_statusRegister (w _), Controller.raise_statusRegister h]⟩

/-- A register takes a value: its stored bits there, IR perhaps, and nothing else. -/
theorem Controller.setRegister_spec {c : Controller} (h : c.regs.wf = true) (limit : Nat) {a : Nat} (ha : a < 128)
    (v : Byte) :
    (c.setRegister limit a v).regs.wf = true ∧
    c.setRegister limit a v = { c with regs := (c.setRegister limit a v).regs } ∧
    (∀ b, b ≠ 3 → (c.setRegister limit a v).regs.read b = if b = a then some (v &&& registerMask a) else c.regs.read b) ∧
    (a ∉ [2, 13, 14, 15] → c.setRegister limit a v = c.setCell a v) := by
  have w := Controller.setCell_wf h ha v
  unfold Controller.setRegister
  split
  · rename_i hl
    obtain ⟨s1, s2, s3, -, -⟩ := Controller.raiseErrorChanges_spec c w limit
    exact ⟨s1, s2, fun b hb => by rw [s3 b hb, Controller.setCell_read h], fun hn => absurd hl (by simpa using hn)⟩
  · exact ⟨w, rfl, fun b _ => Controller.setCell_read h a v b, fun _ => rfl⟩

/-- A wake-up: WUI if enabled, and MOD.SM cleared; nothing else. -/
theorem Controller.wake_spec {c : Controller} (h : c.regs.wf = true) :
    c.wake.regs.wf = true ∧ c.wake = { c with regs := c.wake.regs } ∧
    c.wake.cell 0 3 = c.cell 0 3 ||| (0x10#8 &&& c.cell 0 4) ∧ c.wake.cell 0 0 = c.cell 0 0 &&& 0x0F#8 ∧
    (∀ a, a ≠ 0 → a ≠ 3 → c.wake.regs.read a = c.regs.read a) := by
  have w := Controller.setCell_wf h (b := 0) (by decide) (c.cell 0 0 &&& 0x0F#8)
  unfold Controller.wake
  refine ⟨Controller.raise_wf w _, rfl, ?_, ?_, fun a h0 h3 => ?_⟩
  · rw [Controller.raise_cell w, if_pos rfl, Controller.setCell_cell h, Controller.setCell_cell h, if_neg (by decide),
      if_neg (by decide)]
    rfl
  · rw [Controller.raise_cell w, if_neg (by decide), Controller.setCell_cell h, if_pos rfl, BitVec.and_assoc]
    rfl
  · rw [Controller.raise_read w, if_neg h3, Controller.setCell_read h, if_neg h0]

/-! ### Taking part in the bus -/

/-- The mode and SR.BS decide who takes part in the bus; so nothing that leaves cells 0 and 2 alone changes it. -/
theorem Controller.bus_congr {c d : Controller} (h0 : d.regs.read 0 = c.regs.read 0)
    (h2 : (d.cell 0 2).getLsbD 7 = (c.cell 0 2).getLsbD 7) : d.onBus = c.onBus ∧ d.mayTransmit = c.mayTransmit := by
  have e : d.cell 0 0 = c.cell 0 0 := Controller.cell_congr h0 0
  simp only [Controller.mayTransmit, Controller.onBus, Controller.inResetMode, Controller.busStatus,
    Controller.isSleeping, e, h2, and_self]

/-- Bus activity: WUI if enabled, and MOD.SM, where the controller slept, nothing else; it is awake then, and on the bus as before. -/
theorem Controller.awake_spec {c : Controller} (h : c.regs.wf = true) :
    c.awake.regs.wf = true ∧ c.awake = { c with regs := c.awake.regs } ∧
    c.awake.cell 0 3 = c.cell 0 3 ||| ((if c.isSleeping then 0x10#8 else 0x00#8) &&& c.cell 0 4) ∧
    c.awake.cell 0 0 = (if c.isSleeping then c.cell 0 0 &&& 0x0F#8 else c.cell 0 0) ∧
    (∀ a, a ≠ 0 → a ≠ 3 → c.awake.regs.read a = c.regs.read a) ∧
    c.awake.isSleeping = false ∧ c.awake.onBus = c.onBus := by
  unfold Controller.awake
  cases hs : c.isSleeping
  · simp only [Bool.false_eq_true, if_false]
    exact ⟨h, trivial, by simp, trivial, fun _ _ _ => trivial, hs, trivial⟩
  · simp only [if_true]
    obtain ⟨w, q, i, m, o⟩ := Controller.wake_spec h
    refine ⟨w, q, i, m, o, ?_, ?_⟩
    · unfold Controller.isSleeping
      rw [m, BitVec.getLsbD_and]
      exact Bool.and_false _
    · unfold Controller.onBus Controller.inResetMode Controller.busStatus
      rw [m, Controller.cell_congr (o 2 (by decide) (by decide)), BitVec.getLsbD_and]
      exact congrArg (fun b => !b && !(c.cell 0 2).getLsbD 7) (Bool.and_true _)

/-- A controller that does not sleep takes no notice. -/
theorem Controller.awake_of_awake {c : Controller} (h : c.isSleeping = false) : c.awake = c := by
  unfold Controller.awake
  rw [h]
  rfl

theorem Controller.OnBus_iff (c : Controller) : c.OnBus ↔ c.onBus = true := by
  have e : (c.shows 0 2).getLsbD 7 = c.busStatus := c.statusRegister_getLsbD.2.2.2.2.2.2.2
  unfold Controller.OnBus Controller.onBus
  rw [e, Bool.and_eq_true, Bool.not_eq_true', Bool.not_eq_true']
  exact Iff.rfl

theorem Controller.CanTransmit_iff (c : Controller) : c.CanTransmit ↔ c.mayTransmit = true := by
  unfold Controller.CanTransmit Controller.mayTransmit
  rw [Controller.OnBus_iff, Bool.and_eq_true, Bool.and_eq_true, Bool.not_eq_true', Bool.not_eq_true', and_assoc]
  exact Iff.rfl

theorem Controller.ErrorPassive_iff (c : Controller) (limit : Nat) : c.ErrorPassive limit ↔ c.isPassive limit = true := by
  have e : (c.shows 0 2).getLsbD 7 = c.busStatus := c.statusRegister_getLsbD.2.2.2.2.2.2.2
  unfold Controller.ErrorPassive Controller.isPassive
  rw [e, Bool.and_eq_true, Bool.not_eq_true', Bool.or_eq_true, decide_eq_true_eq, decide_eq_true_eq]
  exact Iff.rfl

/-! ### The receive FIFO -/

theorem fifoCell_bounds (a : BitVec 6) : 32 ≤ fifoCell a ∧ fifoCell a ≤ 95 := by
  unfold fifoCell
  omega

theorem fifoCell_add (a : BitVec 6) (k : Nat) : fifoCell (a + BitVec.ofNat 6 k) = 32 + (a.toNat + k) % 64 := by
  simp [fifoCell, BitVec.toNat_add]

theorem fifoCell_lt (a : BitVec 6) : fifoCell a < 128 := by
  have := fifoCell_bounds a
  omega

/-- Storing bytes from an address on, no more than the RAM holds: byte `k` stands `k` places on, and nothing else at the
controller changes. -/
theorem Controller.storeFrom_spec {c : Controller} (h : c.regs.wf = true) (a : BitVec 6) (bs : List Byte)
    (hl : bs.length ≤ 64) :
    (c.storeFrom a bs).regs.wf = true ∧
    c.storeFrom a bs = { c with regs := (c.storeFrom a bs).regs } ∧
    (∀ k (hk : k < bs.length), (c.storeFrom a bs).regs.read (32 + (a.toNat + k) % 64) = some bs[k]) ∧
    (∀ b, (∀ k < bs.length, b ≠ 32 + (a.toNat + k) % 64) → (c.storeFrom a bs).regs.read b = c.regs.read b) := by
  induction bs generalizing c a with
  | nil => exact ⟨h, rfl, fun k hk => absurd hk (by simp), fun _ _ => rfl⟩
  | cons x bs ih =>
    simp only [List.length_cons] at hl
    have hc := fifoCell_bounds a
    obtain ⟨i1, i2, i3, i4⟩ := ih (Controller.setCell_wf h (fifoCell_lt a) x) (a + 1) (by omega)
    have shift : ∀ k, ((a + 1).toNat + k) % 64 = (a.toNat + (k + 1)) % 64 := fun k => by
      simp only [BitVec.toNat_add, BitVec.reduceToNat]; omega
    refine ⟨i1, i2, fun k hk => ?_, fun b hb => ?_⟩
    · cases k with
      | zero =>
        show ((c.setCell (fifoCell a) x).storeFrom (a + 1) bs).regs.read _ = _
        have e : 32 + (a.toNat + 0) % 64 = fifoCell a := by unfold fifoCell; omega
        rw [e, i4, Controller.setCell_read h, if_pos rfl, registerMask_full (by omega) (by omega)]
        · rfl
        · intro k hk'
          rw [shift]
          unfold fifoCell
          omega
      | succ k =>
        show ((c.setCell (fifoCell a) x).storeFrom (a + 1) bs).regs.read _ = _
        rw [← shift]
        exact i3 k (by simpa using hk)
    · show ((c.setCell (fifoCell a) x).storeFrom (a + 1) bs).regs.read _ = _
      rw [i4 b fun k hk => by rw [shift]; exact hb (k + 1) (by simp; omega), Controller.setCell_read h]
      have e := hb 0 (by simp)
      rw [if_neg]
      unfold fifoCell
      omega

theorem imageLength_bounds (info : Byte) : 3 ≤ imageLength info ∧ imageLength info ≤ 13 := by
  have hc : (clampDlc (info.extractLsb' 0 4)).toNat ≤ 8 := by
    unfold clampDlc
    split
    · decide
    · omega
  unfold imageLength idLength dataLength
  split <;> split <;> omega

/-- A message takes as many bytes as its frame-info byte says. -/
theorem messageBytes_length (img : Image) : (messageBytes img).length = imageLength (imageByte img 0) := by
  simp only [messageBytes, List.length_map, List.length_range]

theorem messageBytes_get (img : Image) {k : Nat} (hk : k < (messageBytes img).length) :
    (messageBytes img)[k] = receivedByte img k := by
  simp only [messageBytes, List.getElem_map, List.getElem_range]

/-- A message that enters the FIFO: counted, RI raised if enabled, its bytes in the RAM behind those waiting. -/
theorem Controller.enqueue_spec {c : Controller} (h : c.regs.wf = true) (img : Image) :
    (c.enqueue img).regs.wf = true ∧
    c.enqueue img = { c with
      regs := (c.enqueue img).regs, fifoCount := c.fifoCount + 1,
      fifoEnd := c.fillStart + BitVec.ofNat 6 (imageLength (imageByte img 0)) } ∧
    (c.enqueue img).cell 0 3 = c.cell 0 3 ||| (0x01#8 &&& c.cell 0 4) ∧
    (∀ k < imageLength (imageByte img 0),
      (c.enqueue img).regs.read (32 + (c.fillStart.toNat + k) % 64) = some (receivedByte img k)) ∧
    (∀ a, a ≠ 3 → (∀ k < imageLength (imageByte img 0), a ≠ 32 + (c.fillStart.toNat + k) % 64) →
      (c.enqueue img).regs.read a = c.regs.read a) := by
  have hb := messageBytes_length img
  have hl := (imageLength_bounds (imageByte img 0)).2
  obtain ⟨s1, s2, s3, s4⟩ := Controller.storeFrom_spec h c.fillStart (messageBytes img) (by omega)
  have w : ({ c.storeFrom c.fillStart (messageBytes img) with
      fifoCount := c.fifoCount + 1,
      fifoEnd := c.fillStart + BitVec.ofNat 6 (messageBytes img).length } : Controller).regs.wf = true := s1
  refine ⟨Controller.raise_wf w _, ?_, ?_, fun k hk => ?_, fun a ha hn => ?_⟩
  · rw [← hb]
    unfold Controller.enqueue
    rw [Controller.raise_eq, s2]
  · unfold Controller.enqueue
    rw [Controller.raise_cell w, if_pos rfl]
    have kept : ∀ a < 32, (c.storeFrom c.fillStart (messageBytes img)).cell 0 a = c.cell 0 a := fun a _ =>
      Controller.cell_congr (s4 a fun k _ => by omega) 0
    rw [← kept 3 (by decide), ← kept 4 (by decide)]
    rfl
  · unfold Controller.enqueue
    rw [Controller.raise_read w, if_neg (by omega)]
    have hk' : k < (messageBytes img).length := by omega
    show (c.storeFrom c.fillStart (messageBytes img)).regs.read _ = _
    rw [s3 k hk', messageBytes_get img hk']
  · unfold Controller.enqueue
    rw [Controller.raise_read w, if_neg ha]
    exact s4 a fun k hk => hn k (by omega)

/-- A message that is lost: SR.DOS, DOI if enabled, nothing else. -/
theorem Controller.loseMessage_spec {c : Controller} (h : c.regs.wf = true) :
    c.loseMessage.regs.wf = true ∧
    c.loseMessage = { c with regs := c.loseMessage.regs } ∧
    c.loseMessage.cell 0 3 = c.cell 0 3 ||| (0x08#8 &&& c.cell 0 4) ∧ c.loseMessage.cell 0 2 = c.cell 0 2 ||| 0x02#8 ∧
    (∀ a, a ≠ 2 → a ≠ 3 → c.loseMessage.regs.read a = c.regs.read a) := by
  have w := Controller.setCell_wf h (b := 2) (by decide) (c.cell 0 2 ||| 0x02#8)
  refine ⟨Controller.raise_wf w _, rfl, ?_, ?_, fun a h2 h3 => ?_⟩
  · unfold Controller.loseMessage
    rw [Controller.raise_cell w, if_pos rfl, Controller.setCell_cell h, Controller.setCell_cell h, if_neg (by decide),
      if_neg (by decide)]
    rfl
  · unfold Controller.loseMessage
    rw [Controller.raise_cell w, if_neg (by decide), Controller.setCell_cell h, if_pos rfl,
      registerMask_full (by decide) (by decide)]
  · unfold Controller.loseMessage
    rw [Controller.raise_read w, if_neg h3, Controller.setCell_read h, if_neg h2]

/-- An arriving message either enters the FIFO or is lost, as its room decides. -/
theorem Controller.receive_cases (c : Controller) (img : Image) :
    (imageLength (imageByte img 0) ≤ c.fifoRoom ∧ c.receive img = c.enqueue img) ∨
    (c.fifoRoom < imageLength (imageByte img 0) ∧ c.receive img = c.loseMessage) := by
  unfold Controller.receive
  rw [messageBytes_length]
  split
  · rename_i h; exact .inl ⟨h, rfl⟩
  · rename_i h; exact .inr ⟨by omega, rfl⟩

theorem Controller.receive_wf {c : Controller} (h : c.regs.wf = true) (img : Image) :
    (c.receive img).regs.wf = true := by
  obtain ⟨-, e⟩ | ⟨-, e⟩ := c.receive_cases img
  · rw [e]; exact (Controller.enqueue_spec h img).1
  · rw [e]; exact (Controller.loseMessage_spec h).1

/-- Moving the current receive buffer: RBSA bits 5:0, and nothing else. -/
theorem Controller.moveBuffer_spec {c : Controller} (h : c.regs.wf = true) (a : BitVec 6) :
    (c.moveBuffer a).regs.wf = true ∧ c.moveBuffer a = { c with regs := (c.moveBuffer a).regs } ∧
    (c.moveBuffer a).bufferStart = a ∧ (c.moveBuffer a).cell 0 30 = (c.cell 0 30).extractLsb' 6 2 ++ a ∧
    (∀ b, b ≠ 30 → (c.moveBuffer a).regs.read b = c.regs.read b) := by
  have e : (c.moveBuffer a).cell 0 30 = (c.cell 0 30).extractLsb' 6 2 ++ a := by
    unfold Controller.moveBuffer
    rw [Controller.setCell_cell h, if_pos rfl, registerMask_full (by decide) (by decide)]
  refine ⟨Controller.setCell_wf h (by decide) _, rfl, ?_, e, fun b hb => ?_⟩
  · unfold Controller.bufferStart
    rw [e]
    apply BitVec.eq_of_getLsbD_eq
    intro j hj
    simp only [BitVec.getLsbD_extractLsb', BitVec.getLsbD_append, Nat.zero_add, hj, decide_true, if_true, Bool.true_and]
  · unfold Controller.moveBuffer
    rw [Controller.setCell_read h, if_neg hb]

theorem Controller.releaseReceiveBuffer_wf {c : Controller} (h : c.regs.wf = true) (free : Nat → Byte) :
    (c.releaseReceiveBuffer free).regs.wf = true := by
  unfold Controller.releaseReceiveBuffer
  split
  · exact h
  · exact (Controller.moveBuffer_spec h _).1

/-! ### Transmissions -/

/-- The end of a transmission: SR.TCS and SR.TS, TI if enabled and no request waits in the latch, nothing else. -/
theorem Controller.releaseTransmitBuffer_spec {c : Controller} (h : c.regs.wf = true) (completed : Bool) :
    (c.releaseTransmitBuffer completed).regs.wf = true ∧
    c.releaseTransmitBuffer completed =
      { c with regs := (c.releaseTransmitBuffer completed).regs, inFlight := none } ∧
    (c.releaseTransmitBuffer completed).cell 0 2 = (c.cell 0 2 &&& 0xD7#8) ||| (if completed then 0x08#8 else 0x00#8) ∧
    (c.releaseTransmitBuffer completed).cell 0 3 =
      (if c.latch.any requestsTransmission then c.cell 0 3 else c.cell 0 3 ||| (0x02#8 &&& c.cell 0 4)) ∧
    (∀ a, a ≠ 2 → a ≠ 3 → (c.releaseTransmitBuffer completed).regs.read a = c.regs.read a) := by
  have h' : ({ c with inFlight := none } : Controller).regs.wf = true := h
  have w := Controller.setCell_wf h' (b := 2) (by decide)
    ((c.cell 0 2 &&& 0xD7#8) ||| (if completed then 0x08#8 else 0x00#8))
  have e : ({ c with inFlight := none } : Controller).txPending = c.latch.any requestsTransmission := rfl
  unfold Controller.releaseTransmitBuffer
  simp only [Controller.setCell_txPending, e]
  by_cases hp : c.latch.any requestsTransmission = true
  · simp only [hp, if_true]
    exact ⟨w, rfl, by rw [Controller.setCell_cell h', if_pos rfl, registerMask_full (by decide) (by decide)],
      by rw [Controller.setCell_cell h', if_neg (by decide)]; rfl,
      fun a h2 _ => by rw [Controller.setCell_read h', if_neg h2]⟩
  · simp only [hp, Bool.false_eq_true, if_false]
    refine ⟨Controller.raise_wf w _, rfl, ?_, ?_, fun a h2 h3 => ?_⟩
    · rw [Controller.raise_cell w, if_neg (by decide), Controller.setCell_cell h', if_pos rfl,
        registerMask_full (by decide) (by decide)]
    · rw [Controller.raise_cell w, if_pos rfl, Controller.setCell_cell h', Controller.setCell_cell h',
        if_neg (by decide), if_neg (by decide)]
      rfl
    · rw [Controller.raise_read w, if_neg h3, Controller.setCell_read h', if_neg h2]

/-- What a failed attempt can do: end a single-shot or aborted transmission where the controller can transmit, or
nothing. -/
theorem Controller.attemptFails_cases (c : Controller) :
    (∃ r, c.inFlight = some r ∧ c.mayTransmit = true ∧ (r.singleShot || r.abortRequested) = true ∧
      c.attemptFails = c.releaseTransmitBuffer false) ∨ c.attemptFails = c := by
  unfold Controller.attemptFails
  cases hi : c.inFlight with
  | none => exact .inr rfl
  | some r =>
    by_cases hr : (c.mayTransmit && (r.singleShot || r.abortRequested)) = true
    · have hb := (Bool.and_eq_true _ _).mp hr
      exact .inl ⟨r, rfl, hb.1, hb.2, if_pos hr⟩
    · exact .inr (if_neg hr)

theorem Controller.attemptFails_wf {c : Controller} (h : c.regs.wf = true) : c.attemptFails.regs.wf = true := by
  obtain ⟨-, -, -, -, e⟩ | e := c.attemptFails_cases
  · rw [e]; exact (Controller.releaseTransmitBuffer_spec h false).1
  · rw [e]; exact h

/-- What the end of a transmission can do: nothing, or release the buffer, a message delivered before it or not. -/
theorem Controller.endTransmission_cases (c : Controller) (free : Nat → Byte) (completed : Bool) :
    ((c.inFlight = none ∨ (completed = true ∧ c.mayTransmit = false)) ∧ c.endTransmission free completed = c) ∨
    (∃ r, c.inFlight = some r ∧ (completed = true → c.mayTransmit = true) ∧ c.endTransmission free completed =
      (if r.selfReception && completed then c.receive (c.selfReceived free) else c).releaseTransmitBuffer completed) := by
  unfold Controller.endTransmission
  cases hi : c.inFlight with
  | none => exact .inl ⟨.inl rfl, rfl⟩
  | some r =>
    cases completed <;> cases hm : c.mayTransmit
    · exact .inr ⟨r, rfl, by simp, rfl⟩
    · exact .inr ⟨r, rfl, by simp, rfl⟩
    · exact .inl ⟨.inr ⟨rfl, rfl⟩, rfl⟩
    · exact .inr ⟨r, rfl, by simp, rfl⟩

theorem Controller.endTransmission_wf {c : Controller} (h : c.regs.wf = true) (free : Nat → Byte) (completed : Bool) :
    (c.endTransmission free completed).regs.wf = true := by
  obtain ⟨-, e⟩ | ⟨r, -, -, e⟩ := c.endTransmission_cases free completed
  · rw [e]; exact h
  · rw [e]
    refine (Controller.releaseTransmitBuffer_spec ?_ completed).1
    split
    · exact Controller.receive_wf h _
    · exact h

/-! ### Captures -/

/-- A bus error: BEI if enabled, and ECC captures it if armed; nothing else. -/
theorem Controller.captureBusError_spec {c : Controller} (h : c.regs.wf = true) (v : Byte) :
    (c.captureBusError v).regs.wf = true ∧
    c.captureBusError v = { c with regs := (c.captureBusError v).regs, eccArmed := false } ∧
    (c.captureBusError v).cell 0 3 = c.cell 0 3 ||| (0x80#8 &&& c.cell 0 4) ∧
    (c.captureBusError v).regs.read 12 = (if c.eccArmed then some v else c.regs.read 12) ∧
    (∀ a, a ≠ 3 → a ≠ 12 → (c.captureBusError v).regs.read a = c.regs.read a) := by
  have w : ({ c.setCell 12 v with eccArmed := false } : Controller).regs.wf = true :=
    Controller.setCell_wf h (by decide) v
  have hr := Controller.setCell_read h 12 v
  rw [registerMask_full (by decide) (by decide)] at hr
  unfold Controller.captureBusError
  cases he : c.eccArmed
  · simp only [Bool.false_eq_true, if_false]
    refine ⟨Controller.raise_wf h _, ?_, ?_, ?_, fun a h3 _ => ?_⟩
    · rw [Controller.raise_eq, ← he]
    · rw [Controller.raise_cell h, if_pos rfl]; rfl
    · rw [Controller.raise_read h, if_neg (by decide)]
    · rw [Controller.raise_read h, if_neg h3]
  · simp only [if_true]
    refine ⟨Controller.raise_wf w _, rfl, ?_, ?_, fun a h3 h12 => ?_⟩
    · rw [Controller.raise_cell w, if_pos rfl]
      have kept : ∀ a, a ≠ 12 → (c.setCell 12 v).cell 0 a = c.cell 0 a := fun a ha =>
        Controller.cell_congr (by rw [hr, if_neg ha]) 0
      rw [← kept 3 (by decide), ← kept 4 (by decide)]
      rfl
    · rw [Controller.raise_read w, if_neg (by decide)]; exact hr 12
    · rw [Controller.raise_read w, if_neg h3]; exact (hr a).trans (if_neg h12)

/-- An arbitration loss: ALI if enabled, and ALC captures it if armed; nothing else. -/
theorem Controller.captureArbLost_spec {c : Controller} (h : c.regs.wf = true) (v : Byte) :
    (c.captureArbLost v).regs.wf = true ∧
    c.captureArbLost v = { c with regs := (c.captureArbLost v).regs, alcArmed := false } ∧
    (c.captureArbLost v).cell 0 3 = c.cell 0 3 ||| (0x40#8 &&& c.cell 0 4) ∧
    (c.captureArbLost v).regs.read 11 = (if c.alcArmed then some (v &&& 0x1F#8) else c.regs.read 11) ∧
    (∀ a, a ≠ 3 → a ≠ 11 → (c.captureArbLost v).regs.read a = c.regs.read a) := by
  have w : ({ c.setCell 11 v with alcArmed := false } : Controller).regs.wf = true :=
    Controller.setCell_wf h (by decide) v
  have hr := Controller.setCell_read h 11 v
  unfold Controller.captureArbLost
  cases he : c.alcArmed
  · simp only [Bool.false_eq_true, if_false]
    refine ⟨Controller.raise_wf h _, ?_, ?_, ?_, fun a h3 _ => ?_⟩
    · rw [Controller.raise_eq, ← he]
    · rw [Controller.raise_cell h, if_pos rfl]; rfl
    · rw [Controller.raise_read h, if_neg (by decide)]
    · rw [Controller.raise_read h, if_neg h3]
  · simp only [if_true]
    refine ⟨Controller.raise_wf w _, rfl, ?_, ?_, fun a h3 h11 => ?_⟩
    · rw [Controller.raise_cell w, if_pos rfl]
      have kept : ∀ a, a ≠ 11 → (c.setCell 11 v).cell 0 a = c.cell 0 a := fun a ha =>
        Controller.cell_congr (by rw [hr, if_neg ha]) 0
      rw [← kept 3 (by decide), ← kept 4 (by decide)]
      rfl
    · rw [Controller.raise_read w, if_neg (by decide)]; exact hr 11
    · rw [Controller.raise_read w, if_neg h3]; exact (hr a).trans (if_neg h11)

/-! ### Writes and events keep the canonical form -/

theorem Controller.writeCell_lt {c : Controller} {off : Offset} {a : Nat} (h : c.writeCell off = some a) : a < 128 := by
  have := off.isLt
  simp only [Controller.writeCell] at h
  split at h
  · injection h; omega
  split at h
  · split at h
    · injection h; omega
    · cases h
  split at h
  · split at h
    · cases h
    · injection h; omega
  · cases h

theorem Controller.afterWrite_wf {c : Controller} (h : c.regs.wf = true) (limit : Nat) (off : Offset) (v : Byte) :
    (c.afterWrite limit off v).regs.wf = true := by
  unfold Controller.afterWrite
  split
  · exact h
  · split
    · rename_i ha
      exact (Controller.setRegister_spec h limit (Controller.writeCell_lt ha) v).1
    · exact h

theorem Controller.afterRead_wf {c : Controller} (h : c.regs.wf = true) (off : Offset) (v : Byte) :
    (c.afterRead off v).regs.wf = true := by
  unfold Controller.afterRead
  dsimp only
  repeat' split
  · exact Controller.setCell_wf h (by decide) _
  all_goals exact h

theorem Controller.onEvent_wf {c : Controller} (h : c.regs.wf = true) (p : Config.Params) (free : Nat → Byte)
    (e : EnvEvent) : (c.onEvent p free e).regs.wf = true := by
  have ha := (Controller.awake_spec h).1
  cases e with
  | register off v =>
    show (if isStored off.toNat ∧ off.toNat ≠ 3 then c.setRegister p.passiveLimit off.toNat v else c).regs.wf = true
    split
    · exact (Controller.setRegister_spec h _ off.isLt v).1
    · exact h
  | message img =>
    show (if c.onBus then c.awake.receive img else c).regs.wf = true
    split
    · exact Controller.receive_wf ha img
    · exact h
  | transmitEnd completed => exact Controller.endTransmission_wf h free completed
  | busErrorCapture v =>
    have w := (Controller.captureBusError_spec ha v).1
    show (if c.onBus then
        (if v.getLsbD 5 then c.awake.captureBusError v else (c.awake.captureBusError v).attemptFails)
      else c).regs.wf = true
    repeat' split
    · exact w
    · exact Controller.attemptFails_wf w
    · exact h
  | arbLostCapture v =>
    show (if c.onBus then (c.awake.captureArbLost v).attemptFails else c).regs.wf = true
    split
    · exact Controller.attemptFails_wf (Controller.captureArbLost_spec ha v).1
    · exact h
  | errorCounters rxerr txerr busOff =>
    refine (Controller.raiseErrorChanges_spec c ?_ _).1
    exact Controller.setCell_wf (Controller.setCell_wf (Controller.setCell_wf h (by decide) _) (by decide) _)
      (by decide) _
  | wakeUp => exact ha
  | hardwareReset => rfl

end Sys2Proof.Machine
end

