-- ==== Sys2Proof/Laws/State.lean ====
section
/-! SUPPORT. One lemma per field and update of the state, true by rfl, and what the named updates built from them are. -/

namespace Sys2Proof.Machine

/-! ### withStatus -/

@[simp] theorem State.withStatus_status (s : State) (x : ControllerStatus) : (s.withStatus x).status = x := rfl
@[simp] theorem State.withStatus_busClass (s : State) (x : ControllerStatus) : (s.withStatus x).busClass = s.busClass := rfl
@[simp] theorem State.withStatus_mode (s : State) (x : ControllerStatus) : (s.withStatus x).mode = s.mode := rfl
@[simp] theorem State.withStatus_eccCap (s : State) (x : ControllerStatus) : (s.withStatus x).eccCap = s.eccCap := rfl
@[simp] theorem State.withStatus_alcCap (s : State) (x : ControllerStatus) : (s.withStatus x).alcCap = s.alcCap := rfl
@[simp] theorem State.withStatus_devFault (s : State) (x : ControllerStatus) : (s.withStatus x).devFault = s.devFault := rfl
@[simp] theorem State.withStatus_log (s : State) (x : ControllerStatus) : (s.withStatus x).log = s.log := rfl
@[simp] theorem State.withStatus_response (s : State) (x : ControllerStatus) : (s.withStatus x).response = s.response := rfl
@[simp] theorem State.withStatus_inputs (s : State) (x : ControllerStatus) : (s.withStatus x).inputs = s.inputs := rfl
@[simp] theorem State.withStatus_controller (s : State) (x : ControllerStatus) : (s.withStatus x).controller = s.controller := rfl
@[simp] theorem State.withStatus_answers (s : State) (x : ControllerStatus) : (s.withStatus x).answers = s.answers := rfl
@[simp] theorem State.withStatus_accesses (s : State) (x : ControllerStatus) : (s.withStatus x).accesses = s.accesses := rfl
@[simp] theorem State.withStatus_params (s : State) (x : ControllerStatus) : (s.withStatus x).params = s.params := rfl

/-! ### withClass -/

@[simp] theorem State.withClass_status (s : State) (x : BusClass) : (s.withClass x).status = s.status := rfl
@[simp] theorem State.withClass_busClass (s : State) (x : BusClass) : (s.withClass x).busClass = x := rfl
@[simp] theorem State.withClass_mode (s : State) (x : BusClass) : (s.withClass x).mode = s.mode := rfl
@[simp] theorem State.withClass_eccCap (s : State) (x : BusClass) : (s.withClass x).eccCap = s.eccCap := rfl
@[simp] theorem State.withClass_alcCap (s : State) (x : BusClass) : (s.withClass x).alcCap = s.alcCap := rfl
@[simp] theorem State.withClass_devFault (s : State) (x : BusClass) : (s.withClass x).devFault = s.devFault := rfl
@[simp] theorem State.withClass_log (s : State) (x : BusClass) : (s.withClass x).log = s.log := rfl
@[simp] theorem State.withClass_response (s : State) (x : BusClass) : (s.withClass x).response = s.response := rfl
@[simp] theorem State.withClass_inputs (s : State) (x : BusClass) : (s.withClass x).inputs = s.inputs := rfl
@[simp] theorem State.withClass_controller (s : State) (x : BusClass) : (s.withClass x).controller = s.controller := rfl
@[simp] theorem State.withClass_answers (s : State) (x : BusClass) : (s.withClass x).answers = s.answers := rfl
@[simp] theorem State.withClass_accesses (s : State) (x : BusClass) : (s.withClass x).accesses = s.accesses := rfl
@[simp] theorem State.withClass_params (s : State) (x : BusClass) : (s.withClass x).params = s.params := rfl

/-! ### withMode -/

@[simp] theorem State.withMode_status (s : State) (x : ModeView) : (s.withMode x).status = s.status := rfl
@[simp] theorem State.withMode_busClass (s : State) (x : ModeView) : (s.withMode x).busClass = s.busClass := rfl
@[simp] theorem State.withMode_mode (s : State) (x : ModeView) : (s.withMode x).mode = x := rfl
@[simp] theorem State.withMode_eccCap (s : State) (x : ModeView) : (s.withMode x).eccCap = s.eccCap := rfl
@[simp] theorem State.withMode_alcCap (s : State) (x : ModeView) : (s.withMode x).alcCap = s.alcCap := rfl
@[simp] theorem State.withMode_devFault (s : State) (x : ModeView) : (s.withMode x).devFault = s.devFault := rfl
@[simp] theorem State.withMode_log (s : State) (x : ModeView) : (s.withMode x).log = s.log := rfl
@[simp] theorem State.withMode_response (s : State) (x : ModeView) : (s.withMode x).response = s.response := rfl
@[simp] theorem State.withMode_inputs (s : State) (x : ModeView) : (s.withMode x).inputs = s.inputs := rfl
@[simp] theorem State.withMode_controller (s : State) (x : ModeView) : (s.withMode x).controller = s.controller := rfl
@[simp] theorem State.withMode_answers (s : State) (x : ModeView) : (s.withMode x).answers = s.answers := rfl
@[simp] theorem State.withMode_accesses (s : State) (x : ModeView) : (s.withMode x).accesses = s.accesses := rfl
@[simp] theorem State.withMode_params (s : State) (x : ModeView) : (s.withMode x).params = s.params := rfl

/-! ### withEccCap -/

@[simp] theorem State.withEccCap_status (s : State) (x : Option Byte) : (s.withEccCap x).status = s.status := rfl
@[simp] theorem State.withEccCap_busClass (s : State) (x : Option Byte) : (s.withEccCap x).busClass = s.busClass := rfl
@[simp] theorem State.withEccCap_mode (s : State) (x : Option Byte) : (s.withEccCap x).mode = s.mode := rfl
@[simp] theorem State.withEccCap_eccCap (s : State) (x : Option Byte) : (s.withEccCap x).eccCap = x := rfl
@[simp] theorem State.withEccCap_alcCap (s : State) (x : Option Byte) : (s.withEccCap x).alcCap = s.alcCap := rfl
@[simp] theorem State.withEccCap_devFault (s : State) (x : Option Byte) : (s.withEccCap x).devFault = s.devFault := rfl
@[simp] theorem State.withEccCap_log (s : State) (x : Option Byte) : (s.withEccCap x).log = s.log := rfl
@[simp] theorem State.withEccCap_response (s : State) (x : Option Byte) : (s.withEccCap x).response = s.response := rfl
@[simp] theorem State.withEccCap_inputs (s : State) (x : Option Byte) : (s.withEccCap x).inputs = s.inputs := rfl
@[simp] theorem State.withEccCap_controller (s : State) (x : Option Byte) : (s.withEccCap x).controller = s.controller := rfl
@[simp] theorem State.withEccCap_answers (s : State) (x : Option Byte) : (s.withEccCap x).answers = s.answers := rfl
@[simp] theorem State.withEccCap_accesses (s : State) (x : Option Byte) : (s.withEccCap x).accesses = s.accesses := rfl
@[simp] theorem State.withEccCap_params (s : State) (x : Option Byte) : (s.withEccCap x).params = s.params := rfl

/-! ### withAlcCap -/

@[simp] theorem State.withAlcCap_status (s : State) (x : Option Byte) : (s.withAlcCap x).status = s.status := rfl
@[simp] theorem State.withAlcCap_busClass (s : State) (x : Option Byte) : (s.withAlcCap x).busClass = s.busClass := rfl
@[simp] theorem State.withAlcCap_mode (s : State) (x : Option Byte) : (s.withAlcCap x).mode = s.mode := rfl
@[simp] theorem State.withAlcCap_eccCap (s : State) (x : Option Byte) : (s.withAlcCap x).eccCap = s.eccCap := rfl
@[simp] theorem State.withAlcCap_alcCap (s : State) (x : Option Byte) : (s.withAlcCap x).alcCap = x := rfl
@[simp] theorem State.withAlcCap_devFault (s : State) (x : Option Byte) : (s.withAlcCap x).devFault = s.devFault := rfl
@[simp] theorem State.withAlcCap_log (s : State) (x : Option Byte) : (s.withAlcCap x).log = s.log := rfl
@[simp] theorem State.withAlcCap_response (s : State) (x : Option Byte) : (s.withAlcCap x).response = s.response := rfl
@[simp] theorem State.withAlcCap_inputs (s : State) (x : Option Byte) : (s.withAlcCap x).inputs = s.inputs := rfl
@[simp] theorem State.withAlcCap_controller (s : State) (x : Option Byte) : (s.withAlcCap x).controller = s.controller := rfl
@[simp] theorem State.withAlcCap_answers (s : State) (x : Option Byte) : (s.withAlcCap x).answers = s.answers := rfl
@[simp] theorem State.withAlcCap_accesses (s : State) (x : Option Byte) : (s.withAlcCap x).accesses = s.accesses := rfl
@[simp] theorem State.withAlcCap_params (s : State) (x : Option Byte) : (s.withAlcCap x).params = s.params := rfl

/-! ### withDevFault -/

@[simp] theorem State.withDevFault_status (s : State) (x : Bool) : (s.withDevFault x).status = s.status := rfl
@[simp] theorem State.withDevFault_busClass (s : State) (x : Bool) : (s.withDevFault x).busClass = s.busClass := rfl
@[simp] theorem State.withDevFault_mode (s : State) (x : Bool) : (s.withDevFault x).mode = s.mode := rfl
@[simp] theorem State.withDevFault_eccCap (s : State) (x : Bool) : (s.withDevFault x).eccCap = s.eccCap := rfl
@[simp] theorem State.withDevFault_alcCap (s : State) (x : Bool) : (s.withDevFault x).alcCap = s.alcCap := rfl
@[simp] theorem State.withDevFault_devFault (s : State) (x : Bool) : (s.withDevFault x).devFault = x := rfl
@[simp] theorem State.withDevFault_log (s : State) (x : Bool) : (s.withDevFault x).log = s.log := rfl
@[simp] theorem State.withDevFault_response (s : State) (x : Bool) : (s.withDevFault x).response = s.response := rfl
@[simp] theorem State.withDevFault_inputs (s : State) (x : Bool) : (s.withDevFault x).inputs = s.inputs := rfl
@[simp] theorem State.withDevFault_controller (s : State) (x : Bool) : (s.withDevFault x).controller = s.controller := rfl
@[simp] theorem State.withDevFault_answers (s : State) (x : Bool) : (s.withDevFault x).answers = s.answers := rfl
@[simp] theorem State.withDevFault_accesses (s : State) (x : Bool) : (s.withDevFault x).accesses = s.accesses := rfl
@[simp] theorem State.withDevFault_params (s : State) (x : Bool) : (s.withDevFault x).params = s.params := rfl

/-! ### withInputs -/

@[simp] theorem State.withInputs_status (s : State) (x : List Input) : (s.withInputs x).status = s.status := rfl
@[simp] theorem State.withInputs_busClass (s : State) (x : List Input) : (s.withInputs x).busClass = s.busClass := rfl
@[simp] theorem State.withInputs_mode (s : State) (x : List Input) : (s.withInputs x).mode = s.mode := rfl
@[simp] theorem State.withInputs_eccCap (s : State) (x : List Input) : (s.withInputs x).eccCap = s.eccCap := rfl
@[simp] theorem State.withInputs_alcCap (s : State) (x : List Input) : (s.withInputs x).alcCap = s.alcCap := rfl
@[simp] theorem State.withInputs_devFault (s : State) (x : List Input) : (s.withInputs x).devFault = s.devFault := rfl
@[simp] theorem State.withInputs_log (s : State) (x : List Input) : (s.withInputs x).log = s.log := rfl
@[simp] theorem State.withInputs_response (s : State) (x : List Input) : (s.withInputs x).response = s.response := rfl
@[simp] theorem State.withInputs_inputs (s : State) (x : List Input) : (s.withInputs x).inputs = x := rfl
@[simp] theorem State.withInputs_controller (s : State) (x : List Input) : (s.withInputs x).controller = s.controller := rfl
@[simp] theorem State.withInputs_answers (s : State) (x : List Input) : (s.withInputs x).answers = s.answers := rfl
@[simp] theorem State.withInputs_accesses (s : State) (x : List Input) : (s.withInputs x).accesses = s.accesses := rfl
@[simp] theorem State.withInputs_params (s : State) (x : List Input) : (s.withInputs x).params = s.params := rfl

/-! ### withController -/

@[simp] theorem State.withController_status (s : State) (x : Controller) : (s.withController x).status = s.status := rfl
@[simp] theorem State.withController_busClass (s : State) (x : Controller) : (s.withController x).busClass = s.busClass := rfl
@[simp] theorem State.withController_mode (s : State) (x : Controller) : (s.withController x).mode = s.mode := rfl
@[simp] theorem State.withController_eccCap (s : State) (x : Controller) : (s.withController x).eccCap = s.eccCap := rfl
@[simp] theorem State.withController_alcCap (s : State) (x : Controller) : (s.withController x).alcCap = s.alcCap := rfl
@[simp] theorem State.withController_devFault (s : State) (x : Controller) : (s.withController x).devFault = s.devFault := rfl
@[simp] theorem State.withController_log (s : State) (x : Controller) : (s.withController x).log = s.log := rfl
@[simp] theorem State.withController_response (s : State) (x : Controller) : (s.withController x).response = s.response := rfl
@[simp] theorem State.withController_inputs (s : State) (x : Controller) : (s.withController x).inputs = s.inputs := rfl
@[simp] theorem State.withController_controller (s : State) (x : Controller) : (s.withController x).controller = x := rfl
@[simp] theorem State.withController_answers (s : State) (x : Controller) : (s.withController x).answers = s.answers := rfl
@[simp] theorem State.withController_accesses (s : State) (x : Controller) : (s.withController x).accesses = s.accesses := rfl
@[simp] theorem State.withController_params (s : State) (x : Controller) : (s.withController x).params = s.params := rfl

/-! ### record -/

@[simp] theorem State.record_status (s : State) (e : LogEntry) : (s.record e).status = s.status := rfl
@[simp] theorem State.record_busClass (s : State) (e : LogEntry) : (s.record e).busClass = s.busClass := rfl
@[simp] theorem State.record_mode (s : State) (e : LogEntry) : (s.record e).mode = s.mode := rfl
@[simp] theorem State.record_eccCap (s : State) (e : LogEntry) : (s.record e).eccCap = s.eccCap := rfl
@[simp] theorem State.record_alcCap (s : State) (e : LogEntry) : (s.record e).alcCap = s.alcCap := rfl
@[simp] theorem State.record_devFault (s : State) (e : LogEntry) : (s.record e).devFault = s.devFault := rfl
@[simp] theorem State.record_log (s : State) (e : LogEntry) : (s.record e).log = s.log ++ [e] := rfl
@[simp] theorem State.record_response (s : State) (e : LogEntry) : (s.record e).response = s.response := rfl
@[simp] theorem State.record_inputs (s : State) (e : LogEntry) : (s.record e).inputs = s.inputs := rfl
@[simp] theorem State.record_controller (s : State) (e : LogEntry) : (s.record e).controller = s.controller := rfl
@[simp] theorem State.record_answers (s : State) (e : LogEntry) : (s.record e).answers = s.answers := rfl
@[simp] theorem State.record_accesses (s : State) (e : LogEntry) : (s.record e).accesses = s.accesses := rfl
@[simp] theorem State.record_params (s : State) (e : LogEntry) : (s.record e).params = s.params := rfl

/-! ### countAccess -/

@[simp] theorem State.countAccess_status (s : State) : (s.countAccess).status = s.status := rfl
@[simp] theorem State.countAccess_busClass (s : State) : (s.countAccess).busClass = s.busClass := rfl
@[simp] theorem State.countAccess_mode (s : State) : (s.countAccess).mode = s.mode := rfl
@[simp] theorem State.countAccess_eccCap (s : State) : (s.countAccess).eccCap = s.eccCap := rfl
@[simp] theorem State.countAccess_alcCap (s : State) : (s.countAccess).alcCap = s.alcCap := rfl
@[simp] theorem State.countAccess_devFault (s : State) : (s.countAccess).devFault = s.devFault := rfl
@[simp] theorem State.countAccess_log (s : State) : (s.countAccess).log = s.log := rfl
@[simp] theorem State.countAccess_response (s : State) : (s.countAccess).response = s.response := rfl
@[simp] theorem State.countAccess_inputs (s : State) : (s.countAccess).inputs = s.inputs := rfl
@[simp] theorem State.countAccess_controller (s : State) : (s.countAccess).controller = s.controller := rfl
@[simp] theorem State.countAccess_answers (s : State) : (s.countAccess).answers = s.answers := rfl
@[simp] theorem State.countAccess_accesses (s : State) : (s.countAccess).accesses = s.accesses + 1 := rfl
@[simp] theorem State.countAccess_params (s : State) : (s.countAccess).params = s.params := rfl

/-! ### respond -/

@[simp] theorem State.respond_status (s : State) (r : Result) (o : Outputs) : (s.respond r o).status = s.status := rfl
@[simp] theorem State.respond_busClass (s : State) (r : Result) (o : Outputs) : (s.respond r o).busClass = s.busClass := rfl
@[simp] theorem State.respond_mode (s : State) (r : Result) (o : Outputs) : (s.respond r o).mode = s.mode := rfl
@[simp] theorem State.respond_eccCap (s : State) (r : Result) (o : Outputs) : (s.respond r o).eccCap = s.eccCap := rfl
@[simp] theorem State.respond_alcCap (s : State) (r : Result) (o : Outputs) : (s.respond r o).alcCap = s.alcCap := rfl
@[simp] theorem State.respond_devFault (s : State) (r : Result) (o : Outputs) : (s.respond r o).devFault = s.devFault := rfl
@[simp] theorem State.respond_log (s : State) (r : Result) (o : Outputs) : (s.respond r o).log = s.log := rfl
@[simp] theorem State.respond_response (s : State) (r : Result) (o : Outputs) : (s.respond r o).response = some { result := r, outs := o } := rfl
@[simp] theorem State.respond_inputs (s : State) (r : Result) (o : Outputs) : (s.respond r o).inputs = s.inputs := rfl
@[simp] theorem State.respond_controller (s : State) (r : Result) (o : Outputs) : (s.respond r o).controller = s.controller := rfl
@[simp] theorem State.respond_answers (s : State) (r : Result) (o : Outputs) : (s.respond r o).answers = s.answers := rfl
@[simp] theorem State.respond_accesses (s : State) (r : Result) (o : Outputs) : (s.respond r o).accesses = s.accesses := rfl
@[simp] theorem State.respond_params (s : State) (r : Result) (o : Outputs) : (s.respond r o).params = s.params := rfl

/-! ### Updates built from these -/

@[simp] theorem State.setInitialized_eq (s : State) (b : Bool) :
    s.setInitialized b = s.withStatus { s.status with initialized := b } := rfl
@[simp] theorem State.setMsgWaiting_eq (s : State) (b : Bool) :
    s.setMsgWaiting b = s.withStatus { s.status with msgWaiting := b } := rfl
@[simp] theorem State.setBusOn_eq (s : State) (b : Bool) :
    s.setBusOn b = s.withStatus { s.status with busOn := b } := rfl
@[simp] theorem State.setTxBusy_eq (s : State) (b : Bool) :
    s.setTxBusy b = s.withStatus { s.status with txBusy := b } := rfl
@[simp] theorem State.setErrWarning_eq (s : State) (b : Bool) :
    s.setErrWarning b = s.withStatus { s.status with errWarning := b } := rfl
@[simp] theorem State.setDataOverrun_eq (s : State) (b : Bool) :
    s.setDataOverrun b = s.withStatus { s.status with dataOverrun := b } := rfl
@[simp] theorem State.setErrPassive_eq (s : State) (b : Bool) :
    s.setErrPassive b = s.withStatus { s.status with errPassive := b } := rfl
@[simp] theorem State.setArbLost_eq (s : State) (b : Bool) :
    s.setArbLost b = s.withStatus { s.status with arbLost := b } := rfl
@[simp] theorem State.setBusError_eq (s : State) (b : Bool) :
    s.setBusError b = s.withStatus { s.status with busError := b } := rfl
@[simp] theorem State.select_eq (s : State) : s.select = s.record .sel := rfl
@[simp] theorem State.deselect_eq (s : State) : s.deselect = s.record .desel := rfl
@[simp] theorem State.resetPulse_eq (s : State) :
    s.resetPulse = (s.record .pulse).withController { s.controller with resetRequested := true } := rfl

/-! ### Values that only some fields decide -/

@[simp] theorem State.answerAt_eq (s : State) (n : Nat) :
    s.answerAt n = (s.answers[n]?).getD (Config.rdOracle n) := rfl

/-- What an access would read depends on the controller, the answers and the count alone. -/
theorem State.readValue_congr {s t : State} (hc : t.controller = s.controller) (ha : t.answers = s.answers)
    (hn : t.accesses = s.accesses) (off : Offset) : t.readValue off = s.readValue off := by
  simp [State.readValue, hc, ha, hn]

/-- The status word depends on the flags, the class and the fault alone. -/
theorem State.statusWord_congr {s t : State} (hs : t.status = s.status) (hc : t.busClass = s.busClass)
    (hf : t.devFault = s.devFault) : t.statusWord = s.statusWord := by
  simp [State.statusWord, hs, hc, hf]

end Sys2Proof.Machine
end

