-- ==== Sys2Proof/Laws/Ops.lean ====
section
/-! SUPPORT. What the shared operations can do, said once: one access, a sequence of accesses, the end of an operation. -/

namespace Sys2Proof.Machine

/-! ### One access -/

@[simp] theorem Access.andThen_going {α β : Type} (v : α) (s : State) (k : α → State → Access β) :
    (Access.going v s).andThen k = k v s := rfl

@[simp] theorem Access.andThen_lost {α β : Type} (s : State) (k : α → State → Access β) :
    (Access.lost s).andThen k = .lost s := rfl

@[simp] theorem Access.conclude_going {α : Type} (v : α) (s start : State) (k : α → State → State) :
    (Access.going v s).conclude start k = k v s := rfl

@[simp] theorem Access.conclude_lost {α : Type} (s start : State) (k : α → State → State) :
    (Access.lost s : Access α).conclude start k = start.deviceNotResponding s := rfl

/-- A read whose value is known goes on with it. -/
theorem regRead_of_value {off : Offset} {s : State} {v : Byte} (h : s.readValue off = some v) :
    regRead off s = .going v (s.afterRead off v) := by
  simp [regRead, h]

/-- A read has a value exactly where the controller responds. -/
theorem readValue_of_responds {off : Offset} {s : State} (h : s.answerAt s.accesses ≠ .noresp) :
    ∃ v, s.readValue off = some v ∧ (∀ w, s.answerAt s.accesses = .byte w → v = w) := by
  unfold State.readValue
  cases hc : s.answerAt s.accesses with
  | byte w => exact ⟨w, rfl, fun _ h => by injection h⟩
  | held => exact ⟨_, rfl, fun _ h => by cases h⟩
  | noresp => exact absurd hc h

/-- A write goes on exactly where the controller responds. -/
theorem regWrite_of_responds {off : Offset} {v : Byte} {s : State} (h : s.answerAt s.accesses ≠ .noresp) :
    regWrite off v s = .going () (s.afterWrite off v) := by
  simp only [regWrite, if_neg h]

/-- What one read can do: go on with a value read, or end without response. -/
theorem regRead_cases (off : Offset) (s : State) :
    (∃ v, s.readValue off = some v ∧ regRead off s = .going v (s.afterRead off v)) ∨
    (s.readValue off = none ∧ regRead off s = .lost (s.noResponse off)) := by
  unfold regRead
  cases h : s.readValue off with
  | some v => exact .inl ⟨v, rfl, rfl⟩
  | none => exact .inr ⟨rfl, rfl⟩

/-- What one write can do: go on, or end without response. -/
theorem regWrite_cases (off : Offset) (v : Byte) (s : State) :
    (s.answerAt s.accesses ≠ .noresp ∧ regWrite off v s = .going () (s.afterWrite off v)) ∨
    (s.answerAt s.accesses = .noresp ∧ regWrite off v s = .lost (s.noResponse off)) := by
  by_cases h : s.answerAt s.accesses = .noresp
  · exact .inr ⟨h, by simp only [regWrite, if_pos h]⟩
  · exact .inl ⟨h, regWrite_of_responds h⟩

/-! ### Sequences of accesses -/

/-- The fields no access and no flag touches. -/
structure SamePort (s t : State) : Prop where
  devFault : t.devFault = s.devFault
  response : t.response = s.response
  inputs : t.inputs = s.inputs
  answers : t.answers = s.answers
  params : t.params = s.params
  accesses : s.accesses ≤ t.accesses

theorem SamePort.refl (s : State) : SamePort s s := ⟨rfl, rfl, rfl, rfl, rfl, le_refl _⟩

theorem SamePort.trans {s t u : State} (h : SamePort s t) (g : SamePort t u) : SamePort s u :=
  ⟨g.devFault.trans h.devFault, g.response.trans h.response, g.inputs.trans h.inputs, g.answers.trans h.answers,
    g.params.trans h.params, le_trans h.accesses g.accesses⟩

/-- An answered access. -/
def LogEntry.isAnswered : LogEntry → Bool
  | .rd _ _ => true
  | .wr _ _ => true
  | .noResp _ => false
  | .sel => false
  | .desel => false
  | .pulse => false
  | .statusChange _ _ => false
  | .frameReceived _ => false
  | .txDone _ => false
  | .wakeUp => false

theorem LogEntry.isAccess_of_isAnswered {e : LogEntry} (h : e.isAnswered = true) : e.isAccess = true := by
  cases e <;> simp_all [LogEntry.isAnswered, LogEntry.isAccess]

/-- The outcome of a sequence of accesses from `s` on: it appended answered accesses only, each with the property `P`,
and, if it was lost, one access without response after them, with `P` too. -/
def Access.Follows {α : Type} (s : State) (P : LogEntry → Prop) : Access α → Prop
  | .going _ u => ∃ accs, u.log = s.log ++ accs ∧ accs.all LogEntry.isAnswered = true ∧ (∀ e ∈ accs, P e) ∧ SamePort s u
  | .lost u => ∃ accs off, u.log = s.log ++ (accs ++ [.noResp off]) ∧ accs.all LogEntry.isAnswered = true ∧
      (∀ e ∈ accs, P e) ∧ P (.noResp off) ∧ SamePort s u

/-- Going on without any access. -/
theorem follows_going {α : Type} {s u : State} {P : LogEntry → Prop} (v : α) (hl : u.log = s.log) (hp : SamePort s u) :
    (Access.going v u).Follows s P := ⟨[], by simp [hl], rfl, by simp, hp⟩

theorem regRead_follows (off : Offset) (s : State) (P : LogEntry → Prop) (h : ∀ v, P (.rd off v)) (g : P (.noResp off)) :
    (regRead off s).Follows s P := by
  obtain ⟨v, -, e⟩ | ⟨-, e⟩ := regRead_cases off s
  · rw [e]
    exact ⟨[.rd off v], rfl, rfl, by simpa using h v, ⟨rfl, rfl, rfl, rfl, rfl, Nat.le_succ _⟩⟩
  · rw [e]
    exact ⟨[], off, rfl, rfl, by simp, g, ⟨rfl, rfl, rfl, rfl, rfl, Nat.le_succ _⟩⟩

theorem regWrite_follows (off : Offset) (v : Byte) (s : State) (P : LogEntry → Prop) (h : P (.wr off v))
    (g : P (.noResp off)) : (regWrite off v s).Follows s P := by
  obtain ⟨-, e⟩ | ⟨-, e⟩ := regWrite_cases off v s
  · rw [e]
    exact ⟨[.wr off v], rfl, rfl, by simpa using h, ⟨rfl, rfl, rfl, rfl, rfl, Nat.le_succ _⟩⟩
  · rw [e]
    exact ⟨[], off, rfl, rfl, by simp, g, ⟨rfl, rfl, rfl, rfl, rfl, Nat.le_succ _⟩⟩

/-- A sequence may start in any state with the same log and the same port. -/
theorem Access.Follows.from {α : Type} {s s' : State} {P : LogEntry → Prop} {a : Access α} (h : a.Follows s' P)
    (hl : s'.log = s.log) (hp : SamePort s s') : a.Follows s P := by
  cases a with
  | going v u => obtain ⟨accs, h1, h2, h3, h4⟩ := h; exact ⟨accs, by rw [h1, hl], h2, h3, hp.trans h4⟩
  | lost u => obtain ⟨accs, off, h1, h2, h3, h4, h5⟩ := h; exact ⟨accs, off, by rw [h1, hl], h2, h3, h4, hp.trans h5⟩

/-- One sequence after another. -/
theorem Access.Follows.andThen {α β : Type} {s : State} {P : LogEntry → Prop} {a : Access α}
    {k : α → State → Access β} (h : a.Follows s P) (g : ∀ v u, (k v u).Follows u P) : (a.andThen k).Follows s P := by
  cases a with
  | lost u => exact h
  | going v u =>
    obtain ⟨accs, h1, h2, h3, h4⟩ := h
    have hk := g v u
    simp only [Access.andThen_going]
    cases hkv : k v u with
    | going w x =>
      rw [hkv] at hk
      obtain ⟨accs', k1, k2, k3, k4⟩ := hk
      exact ⟨accs ++ accs', by rw [k1, h1, List.append_assoc], by simp [h2, k2],
        fun e he => (List.mem_append.mp he).elim (h3 e) (k3 e), h4.trans k4⟩
    | lost x =>
      rw [hkv] at hk
      obtain ⟨accs', off, k1, k2, k3, k4, k5⟩ := hk
      exact ⟨accs ++ accs', off, by rw [k1, h1]; simp, by simp [h2, k2],
        fun e he => (List.mem_append.mp he).elim (h3 e) (k3 e), k4, h4.trans k5⟩

theorem regReadAll_follows (offs : List Offset) (s : State) (P : LogEntry → Prop)
    (h : ∀ off ∈ offs, (∀ v, P (.rd off v)) ∧ P (.noResp off)) : (regReadAll offs s).Follows s P := by
  induction offs generalizing s with
  | nil => exact follows_going _ rfl (SamePort.refl s)
  | cons off offs ih =>
    refine (regRead_follows off s P (h off (by simp)).1 (h off (by simp)).2).andThen fun v t => ?_
    exact (ih t fun o ho => h o (by simp [ho])).andThen fun vs u => follows_going _ rfl (SamePort.refl u)

theorem regWriteAll_follows (ws : List (Offset × Byte)) (s : State) (P : LogEntry → Prop)
    (h : ∀ w ∈ ws, P (.wr w.1 w.2) ∧ P (.noResp w.1)) : (regWriteAll ws s).Follows s P := by
  induction ws generalizing s with
  | nil => exact follows_going _ rfl (SamePort.refl s)
  | cons w ws ih =>
    refine (regWrite_follows w.1 w.2 s P (h w (by simp)).1 (h w (by simp)).2).andThen fun _ t => ?_
    exact ih t fun o ho => h o (by simp [ho])

/-! ### Events and the end of an operation -/

/-- `emit status_change if changed` appends at most the event, with the current values. -/
theorem State.emitIfChanged_eq (start s : State) :
    start.emitIfChanged s = { s with log := s.log ++ (if s.status = start.status ∧ s.busClass = start.busClass then []
      else [.statusChange s.statusWord s.busClass]) } := by
  unfold State.emitIfChanged
  split <;> simp [State.record]

/-- The exception, written out. -/
theorem State.deviceNotResponding_eq (start s : State) :
    start.deviceNotResponding s = { s with
      devFault := true,
      log := s.log ++ ([.desel] ++ (if s.status = start.status ∧ s.busClass = start.busClass then []
        else [.statusChange (s.withDevFault true).statusWord s.busClass])),
      response := some { result := .deviceNotResponding, outs := .none } } := by
  simp only [State.deviceNotResponding, State.emitIfChanged_eq]
  simp [State.respond, State.withDevFault, State.deselect, State.record, State.statusWord]

/-! ### The operations that access the window -/

/-- The offsets TRY_RECEIVE reads in the buffer are 16 to 28. -/
theorem restIndices_le (info : Byte) (k : Nat) (h : k ∈ restIndices info) : 1 ≤ k ∧ k ≤ 12 := by
  have hc : (clampDlc (info.extractLsb' 0 4)).toNat ≤ 8 := by
    unfold clampDlc
    split
    · decide
    · omega
  simp only [restIndices, List.mem_range'_1, idLength, dataLength] at h
  split at h <;> split at h <;> omega

theorem bufferOffset_toNat {k : Nat} (h : k ≤ 12) : (bufferOffset k).toNat = 16 + k := by
  simp only [bufferOffset, BitVec.toNat_ofNat]
  omega

end Sys2Proof.Machine
end

