-- ==== Sys2Proof/Laws/PerInstr.lean ====
section
/-! SUPPORT. Statements for all instructions, proved per instruction. -/

namespace Sys2Proof.Laws

/-- The 8-bit word a packet carries. -/
def wordOf : Packet → Byte
  | .command word _ => word
  | .cmr b => b
  | .image info _ => info

/-- The mask and the match of an instruction's row of spec/opcode_table.json. -/
def OpcodeRow.row : Instr → Byte × Byte
  | .transmit _ => (0xFF, 0x01)
  | .transmitSs _ => (0xFF, 0x02)
  | .abort => (0xFF, 0x03)
  | .tryReceive => (0xFF, 0x04)
  | .handleInterrupt => (0xFF, 0x05)
  | .setMode _ => (0xFF, 0x06)
  | .ackEvents => (0xFF, 0x07)
  | .readStatus => (0xFF, 0x08)
  | .reset => (0xFF, 0x09)
  | .encode _ => (0xFF, 0x0A)
  | .decode _ => (0xFF, 0x0B)
  | .decodeEcc _ => (0xFF, 0x0C)
  | .decodeAlc _ => (0xFF, 0x0D)
  | .classify _ _ _ _ => (0xFF, 0x0E)
  | .txReadback _ => (0xFF, 0x0F)
  | .cmrTr => (0xFF, 0x01)
  | .cmrSrr => (0xFF, 0x10)
  | .cmrTrAt => (0xFF, 0x03)
  | .cmrSrrAt => (0xFF, 0x12)
  | .cmrAt => (0xFF, 0x02)
  | .cmrRrb => (0xFF, 0x04)
  | .cmrCdo => (0xFF, 0x08)
  | .bufSff _ _ _ _ => (0x80, 0x00)
  | .bufEff _ _ _ _ => (0x80, 0x80)

/-- The word the encoder writes for an instruction matches the instruction's row. -/
def OpcodeRow.Statement (i : Instr) : Prop := wordOf (encode i) &&& (OpcodeRow.row i).1 = (OpcodeRow.row i).2

theorem OpcodeRow.transmit (f : Frame) : OpcodeRow.Statement (.transmit f) := by
  show 0x01#8 &&& 0xFF#8 = 0x01#8
  decide
theorem OpcodeRow.transmitSs (f : Frame) : OpcodeRow.Statement (.transmitSs f) := by
  show 0x02#8 &&& 0xFF#8 = 0x02#8
  decide
theorem OpcodeRow.abort : OpcodeRow.Statement .abort := by
  show 0x03#8 &&& 0xFF#8 = 0x03#8
  decide
theorem OpcodeRow.tryReceive : OpcodeRow.Statement .tryReceive := by
  show 0x04#8 &&& 0xFF#8 = 0x04#8
  decide
theorem OpcodeRow.handleInterrupt : OpcodeRow.Statement .handleInterrupt := by
  show 0x05#8 &&& 0xFF#8 = 0x05#8
  decide
theorem OpcodeRow.setMode (m : Byte) : OpcodeRow.Statement (.setMode m) := by
  show 0x06#8 &&& 0xFF#8 = 0x06#8
  decide
theorem OpcodeRow.ackEvents : OpcodeRow.Statement .ackEvents := by
  show 0x07#8 &&& 0xFF#8 = 0x07#8
  decide
theorem OpcodeRow.readStatus : OpcodeRow.Statement .readStatus := by
  show 0x08#8 &&& 0xFF#8 = 0x08#8
  decide
theorem OpcodeRow.reset : OpcodeRow.Statement .reset := by
  show 0x09#8 &&& 0xFF#8 = 0x09#8
  decide
theorem OpcodeRow.encode (f : Frame) : OpcodeRow.Statement (.encode f) := by
  show 0x0A#8 &&& 0xFF#8 = 0x0A#8
  decide
theorem OpcodeRow.decode (img : Image) : OpcodeRow.Statement (.decode img) := by
  show 0x0B#8 &&& 0xFF#8 = 0x0B#8
  decide
theorem OpcodeRow.decodeEcc (b : Byte) : OpcodeRow.Statement (.decodeEcc b) := by
  show 0x0C#8 &&& 0xFF#8 = 0x0C#8
  decide
theorem OpcodeRow.decodeAlc (b : Byte) : OpcodeRow.Statement (.decodeAlc b) := by
  show 0x0D#8 &&& 0xFF#8 = 0x0D#8
  decide
theorem OpcodeRow.classify (sr ewlr rxerr txerr : Byte) : OpcodeRow.Statement (.classify sr ewlr rxerr txerr) := by
  show 0x0E#8 &&& 0xFF#8 = 0x0E#8
  decide
theorem OpcodeRow.txReadback (k : Byte) : OpcodeRow.Statement (.txReadback k) := by
  show 0x0F#8 &&& 0xFF#8 = 0x0F#8
  decide
theorem OpcodeRow.cmrTr : OpcodeRow.Statement .cmrTr := by
  show 0x01#8 &&& 0xFF#8 = 0x01#8
  decide
theorem OpcodeRow.cmrSrr : OpcodeRow.Statement .cmrSrr := by
  show 0x10#8 &&& 0xFF#8 = 0x10#8
  decide
theorem OpcodeRow.cmrTrAt : OpcodeRow.Statement .cmrTrAt := by
  show 0x03#8 &&& 0xFF#8 = 0x03#8
  decide
theorem OpcodeRow.cmrSrrAt : OpcodeRow.Statement .cmrSrrAt := by
  show 0x12#8 &&& 0xFF#8 = 0x12#8
  decide
theorem OpcodeRow.cmrAt : OpcodeRow.Statement .cmrAt := by
  show 0x02#8 &&& 0xFF#8 = 0x02#8
  decide
theorem OpcodeRow.cmrRrb : OpcodeRow.Statement .cmrRrb := by
  show 0x04#8 &&& 0xFF#8 = 0x04#8
  decide
theorem OpcodeRow.cmrCdo : OpcodeRow.Statement .cmrCdo := by
  show 0x08#8 &&& 0xFF#8 = 0x08#8
  decide
theorem OpcodeRow.bufSff (rtr : Bool) (unused : BitVec 2) (dlc : BitVec 4) (rest : Vector Byte 12) :
    OpcodeRow.Statement (.bufSff rtr unused dlc rest) := by
  show frameInfoByte false rtr unused dlc &&& 0x80#8 = 0x00#8
  revert rtr unused dlc
  decide
theorem OpcodeRow.bufEff (rtr : Bool) (unused : BitVec 2) (dlc : BitVec 4) (rest : Vector Byte 12) :
    OpcodeRow.Statement (.bufEff rtr unused dlc rest) := by
  show frameInfoByte true rtr unused dlc &&& 0x80#8 = 0x80#8
  revert rtr unused dlc
  decide

end Sys2Proof.Laws
end

