-- ==== Sys2Proof/Tests/Slice0.lean ====
section
/-! SUPPORT. Tests on fixed values, every expected value from the spec (the vectors of 95_test_vectors.md, the examples
and corner cases of the rules), and for every statement that has hypotheses a state and operands that meet them. -/

namespace Sys2Proof.Tests

open Sys2Proof.Machine

/-! ### Helpers -/

/-- The state an outcome leads to; the reset state where it leads to none. -/
def after (o : Host.Outcome State Fault Refusal) : State :=
  match o with
  | .next s => s
  | .fault _ => State.reset
  | .refused _ => State.reset

/-- The operating state after SET_MODE with this byte, with the controller's next answers fixed. -/
def operating (m : Byte) (answers : List Config.Answer) : State :=
  { after (exec (.setMode m) State.reset) with log := [], response := none, answers := answers }

/-- The same with every answer a byte. -/
def answering (bs : List Byte) : State := operating 0x00 (bs.map .byte)

/-- The result and outputs of the last command. -/
def reply (s : State) : Result × Outputs :=
  match s.response with
  | some r => (r.result, r.outs)
  | none => (.modeTransitionTimeout, .none)

/-- A controller in operating mode (MOD.RM = 0). -/
def operatingController : Controller := (Controller.reset.setCell 0 0x00).setCell 4 0xFF

/-- `STD 0x123 2 [0xAA,0xBB]`. -/
def frameA : Frame := { fmt := .std, id := 0x123, rtr := false, dlc := 2, data := [0xAA, 0xBB] }

/-- `EXT 0x1ABCDE RTR 3 []`. -/
def frameB : Frame := { fmt := .ext, id := 0x1ABCDE, rtr := true, dlc := 3, data := [] }

/-- `EXT 0x1FFFFFFF 8 [0x01,...,0x08]`: every field at its upper end. -/
def frameC : Frame := { fmt := .ext, id := 0x1FFFFFFF, rtr := false, dlc := 8, data := [1, 2, 3, 4, 5, 6, 7, 8] }

/-- `STD 0x800 0 []`, which is not well-formed. -/
def frameBad : Frame := { fmt := .std, id := 0x800, rtr := false, dlc := 0, data := [] }

def imageA : Image := #v[0x02, 0x24, 0x60, 0xAA, 0xBB, 0, 0, 0, 0, 0, 0, 0, 0]

/-- A remote frame, three bytes long in the FIFO. -/
def imageB : Image := #v[0x40, 0x20, 0xE0, 0, 0, 0, 0, 0, 0, 0, 0, 0, 0]

/-! ### Decoding (spec 30_encoding.md R92, R93, R100, R110) -/

/-- OP in bits 3:0, RSV 0000. -/
theorem test_decode_commands (l : OperandLines) :
    decode (.command 0b00000001 l) = .ok (.transmit l.frameIn) ∧
    decode (.command 0b00000010 l) = .ok (.transmitSs l.frameIn) ∧
    decode (.command 0b00000011 l) = .ok .abort ∧
    decode (.command 0b00000100 l) = .ok .tryReceive ∧
    decode (.command 0b00000101 l) = .ok .handleInterrupt ∧
    decode (.command 0b00000110 l) = .ok (.setMode l.modeIn) ∧
    decode (.command 0b00000111 l) = .ok .ackEvents ∧
    decode (.command 0b00001000 l) = .ok .readStatus ∧
    decode (.command 0b00001001 l) = .ok .reset ∧
    decode (.command 0b00001010 l) = .ok (.encode l.frameIn) ∧
    decode (.command 0b00001011 l) = .ok (.decode l.imageIn) ∧
    decode (.command 0b00001100 l) = .ok (.decodeEcc l.byteIn) ∧
    decode (.command 0b00001101 l) = .ok (.decodeAlc l.byteIn) ∧
    decode (.command 0b00001110 l) = .ok (.classify l.clsSr l.clsEwlr l.clsRxerr l.clsTxerr) ∧
    decode (.command 0b00001111 l) = .ok (.txReadback l.indexIn) :=
  ⟨rfl, rfl, rfl, rfl, rfl, rfl, rfl, rfl, rfl, rfl, rfl, rfl, rfl, rfl, rfl⟩

/-- X1, X2, X3, and both ends of the legal range. -/
theorem test_decode_illegal (l : OperandLines) :
    decode (.command 0x00 l) = .error (.illegalCommand 0x00) ∧ decode (.command 0x10 l) = .error (.illegalCommand 0x10) ∧
    decode (.command 0x19 l) = .error (.illegalCommand 0x19) ∧ decode (.command 0xFF l) = .error (.illegalCommand 0xFF) :=
  ⟨rfl, rfl, rfl, rfl⟩

/-- TR is bit 0, AT bit 1, RRB bit 2, CDO bit 3, SRR bit 4. -/
theorem test_decode_cmr :
    decode (.cmr 0b00000001) = .ok .cmrTr ∧ decode (.cmr 0b00010000) = .ok .cmrSrr ∧
    decode (.cmr 0b00000011) = .ok .cmrTrAt ∧ decode (.cmr 0b00010010) = .ok .cmrSrrAt ∧
    decode (.cmr 0b00000010) = .ok .cmrAt ∧ decode (.cmr 0b00000100) = .ok .cmrRrb ∧
    decode (.cmr 0b00001000) = .ok .cmrCdo ∧ decode (.cmr 0x00) = .error (.reservedCmrByte 0x00) ∧
    decode (.cmr 0x05) = .error (.reservedCmrByte 0x05) ∧ decode (.cmr 0x80) = .error (.reservedCmrByte 0x80) :=
  ⟨rfl, rfl, rfl, rfl, rfl, rfl, rfl, rfl, rfl, rfl⟩

/-- FF bit 7, RTR bit 6, unassigned bits 5:4, DLC bits 3:0. -/
theorem test_decode_frame_info (rest : Vector Byte 12) :
    decode (.image 0b01100011 rest) = .ok (.bufSff true 2 3 rest) ∧
    decode (.image 0b10011000 rest) = .ok (.bufEff false 1 8 rest) := ⟨rfl, rfl⟩

/-- The table's words through the host's two entry points, one of each port. -/
theorem test_table_words :
    decodeTableWord 8 0x0F = some (.txReadback 0) ∧ decodeTableWord 8 0x12 = some .cmrSrrAt ∧
    decodeTableWord 8 0x80 = some (.bufEff false 0 0 (Vector.replicate 12 0)) ∧ decodeTableWord 8 0x100 = none := by
  decide

theorem test_fetch_word_runs :
    step (State.reset.withFetchWord 8 0x07) = exec .ackEvents State.reset ∧
    step (State.reset.withFetchWord 8 0x10) = exec .cmrSrr State.reset ∧
    step (State.reset.withFetchWord 8 0x40) = exec (.bufSff true 0 0 (Vector.replicate 12 0)) State.reset :=
  ⟨rfl, rfl, rfl⟩

/-- The example lines of R94. -/
theorem test_assembler :
    parseLine "TRANSMIT STD 0x123 2 [0xAA,0xBB]" = some (.transmit frameA) ∧
    parseLine "TRANSMIT_SS EXT 0x1ABCDE RTR 3 []" = some (.transmitSs frameB) ∧
    parseLine "CLASSIFY 0x40,96,0,100" = some (.classify 0x40 96 0 100) ∧
    parseLine "TX_READBACK 0" = some (.txReadback 0) ∧ parseLine "DRAIN" = none := by
  decide

/-! ### Well-formedness: an ill-formed term for each check (spec 40_frame_codec.md R141; 30_encoding.md R91) -/

theorem test_wf_id_std : (Instr.transmit frameBad).wellFormed = false := by decide
theorem test_wf_id_ext : (Instr.encode { frameC with id := 0x20000000 }).wellFormed = false := by decide
theorem test_wf_dlc : (Instr.encode { frameB with dlc := 9 }).wellFormed = false := by decide
theorem test_wf_data : (Instr.transmitSs { frameA with data := [0xAA] }).wellFormed = false := by decide
theorem test_wf_rtr : (Instr.transmit { frameA with rtr := true }).wellFormed = false := by decide
theorem test_wf_mode : (Instr.setMode 0x20).wellFormed = false := by decide
theorem test_wf_index : (Instr.txReadback 13).wellFormed = false := by decide

theorem test_wf_accepts :
    (Instr.transmit frameA).wellFormed = true ∧ (Instr.encode frameC).wellFormed = true ∧
    (Instr.transmitSs { frameA with id := 0x7FF }).wellFormed = true ∧ (Instr.setMode 0x1F).wellFormed = true ∧
    (Instr.txReadback 12).wellFormed = true := by decide

/-! ### One step of each instruction -/

/-- W1: 02 24 60 AA BB, the rest unwritten. -/
theorem test_encode_sff : reply (after (exec (.encode frameA) State.reset)) =
    (.ok, .image #v[some 0x02, some 0x24, some 0x60, some 0xAA, some 0xBB, none, none, none, none, none, none, none,
      none]) := by decide

/-- EFF `id = 0x1FFFFFFF` gives bytes 1-4 = 0xFF, 0xFF, 0xFF, 0xF8 (R145). -/
theorem test_encode_eff : reply (after (exec (.encode frameC) State.reset)) =
    (.ok, .image #v[some 0x88, some 0xFF, some 0xFF, some 0xFF, some 0xF8, some 1, some 2, some 3, some 4, some 5,
      some 6, some 7, some 8]) := by decide

/-- DE4: DLC 15 is 8; bits 4:0 of the second identifier byte ignored. -/
theorem test_decode_image_clamps :
    reply (after (exec (.decode #v[0x0F, 0x24, 0x7F, 1, 2, 3, 4, 5, 6, 7, 8, 9, 10]) State.reset)) =
      (.ok, .frame (some { frameA with dlc := 8, data := [1, 2, 3, 4, 5, 6, 7, 8] })) := by decide

/-- DE7: all ones; a remote frame reads no data. -/
theorem test_decode_image_eff :
    reply (after (exec (.decode #v[0xFF, 0xFF, 0xFF, 0xFF, 0xFF, 0xEE, 0xEE, 0xEE, 0xEE, 0xEE, 0xEE, 0xEE, 0xEE])
      State.reset)) = (.ok, .frame (some { frameC with rtr := true, data := [] })) := by decide

/-- DE6 and DE8 through the buffer formats. -/
theorem test_buf_sff :
    reply (after (exec (.bufSff false 3 2 #v[0x24, 0x60, 0xAA, 0xBB, 0, 0, 0, 0, 0, 0, 0, 0]) State.reset)) =
      (.ok, .frame (some frameA)) := by decide

theorem test_buf_eff :
    reply (after (exec (.bufEff false 0 0 #v[0, 0, 0, 0x07, 0, 0, 0, 0, 0, 0, 0, 0]) State.reset)) =
      (.ok, .frame (some { fmt := .ext, id := 0, rtr := false, dlc := 0, data := [] })) := by decide

/-- R172, worked example. -/
theorem test_transmit :
    (after (exec (.transmit frameA) (answering [0, 0, 0, 0, 0, 0]))).log =
      [.sel, .wr 16 0x02, .wr 17 0x24, .wr 18 0x60, .wr 19 0xAA, .wr 20 0xBB, .wr 1 0x01, .desel,
       .statusChange 0x00D .active] := by decide

/-- R173, worked example in self-test mode (P6). -/
theorem test_transmit_ss :
    (after (exec (.transmitSs frameB) (operating 0x04 (List.replicate 6 (.byte 0))))).log =
      [.sel, .wr 16 0xC3, .wr 17 0x00, .wr 18 0xD5, .wr 19 0xE6, .wr 20 0xF0, .wr 1 0x12, .desel,
       .statusChange 0x00D .active] := by decide

/-- P4: the write at offset 18 gets no response; `tx_busy` stays 0 and no status change is emitted. -/
theorem test_transmit_no_response :
    let t := after (exec (.transmit frameA) (operating 0x00 [.byte 0, .byte 0, .noresp]))
    t.log = [.sel, .wr 16 0x02, .wr 17 0x24, .noResp 18, .desel] ∧ t.devFault = true ∧ t.status.txBusy = false ∧
      reply t = (.deviceNotResponding, .none) := by decide

/-- A state with a transmission requested. -/
def busy (answers : List Config.Answer) : State := (operating 0x00 answers).setTxBusy true

theorem test_abort :
    let t := after (exec .abort (busy [.byte 0]))
    t.log = [.sel, .wr 1 0x02, .desel] ∧ t.status.txBusy = true ∧ t.controller.latch = [0x02] := by decide

/-- `TX_READBACK 2` logs `Sel, Rd(98,0x60), Desel`. -/
theorem test_tx_readback :
    let t := after (exec (.txReadback 2) (answering [0x60]))
    t.log = [.sel, .rd 98 0x60, .desel] ∧ reply t = (.ok, .byte 0x60) := by decide

/-- P2 step 3: RMC = 2, overrun acknowledged after the release. -/
theorem test_try_receive :
    let t := after (exec .tryReceive ((answering [0x03, 0x02, 0x24, 0x60, 0xAA, 0xBB, 0x02, 0, 0]).setDataOverrun true))
    t.log = [.sel, .rd 2 0x03, .rd 16 0x02, .rd 17 0x24, .rd 18 0x60, .rd 19 0xAA, .rd 20 0xBB, .rd 29 0x02,
      .wr 1 0x04, .wr 1 0x08, .desel, .frameReceived frameA, .statusChange 0x007 .active] ∧
    reply t = (.ok, .frame (some frameA)) := by decide

/-- X18: SR answers 0x00. -/
theorem test_try_receive_nothing :
    let t := after (exec .tryReceive (answering [0x00]))
    t.log = [.sel, .rd 2 0x00, .desel] ∧ reply t = (.ok, .frame none) := by decide

/-- P7 step 3: every interrupt bit at once. -/
theorem test_handle_interrupt_all :
    let t := after (exec .handleInterrupt ((answering [0xFF, 0x02, 0x1F, 0x4D, 96, 100, 0, 0x0D]).setTxBusy true))
    t.log = [.sel, .rd 3 0xFF, .rd 12 0x02, .rd 11 0x1F, .rd 2 0x4D, .rd 13 0x60, .rd 14 0x64, .rd 15 0x00, .rd 2 0x0D,
      .desel, .txDone true, .wakeUp, .statusChange 0x3B7 .warning] ∧ t.eccCap = some 0x02 ∧ t.alcCap = some 0x1F := by
  decide

/-- P3 step 5: bus-off turns the mode view to RESET. -/
theorem test_handle_interrupt_bus_off :
    let t := after (exec .handleInterrupt (answering [0x04, 0xC0, 96, 0, 255]))
    t.busClass = .busOff ∧ t.mode.op = .reset ∧ t.status.busOn = false ∧ t.statusWord = 0x601 := by decide

/-- P5 steps 6 and 7: one status change, then none. -/
theorem test_ack_events :
    (after (exec .ackEvents (((answering []).setArbLost true).setBusError true))).log = [.statusChange 0x005 .active] ∧
    (after (exec .ackEvents (answering []))).log = [] := by decide

/-- X14: AFM is ignored. -/
theorem test_set_mode :
    let t := after (exec (.setMode 0x08) State.reset)
    t.log = [.statusChange 0x005 .active] ∧ t.mode = { op := .operating, lom := false, stm := false, sm := false } := by
  decide

/-- X15. -/
theorem test_read_status :
    reply (after (exec .readStatus State.reset)) = (.ok, .status 0x000 0x01 none none) := by decide

/-- X21. -/
theorem test_reset :
    let t := after (exec .reset ((answering []).withDevFault true))
    t.log = [.pulse] ∧ t.devFault = false ∧ t.controller.resetRequested = true := by decide

theorem test_decode_ecc :
    reply (after (exec (.decodeEcc 0x8A) State.reset)) = (.ok, .ecc { errc := .stuff, dir := .tx, seg := .dataField }) ∧
    reply (after (exec (.decodeEcc 0xFF) State.reset)) =
      (.ok, .ecc { errc := .other, dir := .rx, seg := .reserved 0x1F }) := by decide

theorem test_decode_alc :
    reply (after (exec (.decodeAlc 0x0D) State.reset)) = (.ok, .alc { bitno := 13, field := .idBit 17 }) ∧
    reply (after (exec (.decodeAlc 0xE0) State.reset)) = (.ok, .alc { bitno := 0, field := .idBit 28 }) := by decide

/-- Two rows of the CLASSIFY table at its edges. -/
theorem test_classify :
    reply (after (exec (.classify 0x00 96 255 254) State.reset)) = (.ok, .cls .passive) ∧
    reply (after (exec (.classify 0x7F 255 127 127) State.reset)) = (.ok, .cls .active) := by decide

/-- The four requests start what R42 and R101 name. -/
theorem test_cmr_requests :
    (after (exec .cmrTr State.reset)).controller.inFlight = some ⟨false, false, false⟩ ∧
    (after (exec .cmrSrr State.reset)).controller.inFlight = some ⟨true, false, false⟩ ∧
    (after (exec .cmrTrAt State.reset)).controller.inFlight = some ⟨false, true, false⟩ ∧
    (after (exec .cmrSrrAt State.reset)).controller.inFlight = some ⟨true, true, false⟩ := by decide

/-- A controller holding two messages, an overrun and a transmission in progress. -/
def loaded : State :=
  State.reset.withController ((((Controller.reset.receive imageA).receive imageB).setCell 2 0x3E).startTransmission false
    false)

theorem test_cmr_at : (after (exec .cmrAt loaded)).controller.inFlight = some ⟨false, false, true⟩ := by decide
theorem test_cmr_rrb : (after (exec .cmrRrb loaded)).controller.messageCount = 1 := by decide
theorem test_cmr_cdo :
    loaded.controller.statusRegister.getLsbD 1 = true ∧
    (after (exec .cmrCdo loaded)).controller.statusRegister.getLsbD 1 = false := by decide

/-- SR after the controller's reset is 0x3C with RBS 0, TBS 1 and ES 0 (R341). -/
theorem test_controller_reset_status : Controller.reset.statusRegister = 0x3C := by decide

/-- SRR completed: the frame goes to the receive FIFO, RI and TI are raised. -/
theorem test_loopback :
    let c := ((operatingController.afterWrite 128 16 0x00).afterWrite 128 17 0x24).startTransmission true false
    let d := c.endTransmission (fun _ => 0) true
    d.shows 0 17 = 0x24 ∧ d.messageCount = 1 ∧ d.cell 0 3 = 0x03 ∧ d.statusRegister = 0x1D := by decide

/-- A self-received remote frame shows the RTR copy: id 0x7FF at offset 18, id 0x1ABCDE (EXT) at offset 20
(R111, R112). -/
theorem test_loopback_rtr_copy :
    let sent (bytes : List Byte) := { bytes.zipIdx.foldl (fun c p => c.setCell (96 + p.2) p.1) operatingController with
      inFlight := some ⟨true, false, false⟩ }
    ((sent [0x40, 0xFF, 0xE0]).endTransmission (fun _ => 0) true).shows 0 18 = 0xF0 ∧
    ((sent [0xC0, 0x00, 0xD5, 0xE6, 0xF0]).endTransmission (fun _ => 0) true).shows 0 20 = 0xF4 := by decide

/-- A message wakes a sleeping controller and is received: WUI and RI, MOD.SM 0. -/
theorem test_message_wakes :
    let c := (operatingController.setCell 0 0x10).onEvent {} (fun _ => 0) (.message imageA)
    c.cell 0 3 = 0x11 ∧ c.cell 0 0 = 0x00 ∧ c.fifoCount = 1 := by decide

/-- RRB with two messages: RBSA moves past the 5 bytes of the first. -/
theorem test_rrb_moves_the_buffer :
    loaded.controller.shows 0 30 = 0 ∧ (after (exec .cmrRrb loaded)).controller.shows 0 30 = 5 := by decide

/-- A request turns TCS off and TS on; a wake-up without MOD.SM and an end with nothing in progress raise nothing. -/
theorem test_controller_events :
    (operatingController.startTransmission false false).statusRegister = 0x30 ∧
    (operatingController.onEvent {} (fun _ => 0) .wakeUp).cell 0 3 = 0x00 ∧
    (operatingController.onEvent {} (fun _ => 0) (.transmitEnd true)).cell 0 3 = 0x00 := by decide

/-- A controller with BEI pending and enabled. -/
def interrupting : Controller := (Controller.reset.setCell 4 0x80).raise 0x80

/-- A read of IR through the register map clears what it reported. -/
theorem test_ir_clears :
    (interrupting.cell 0 3, (interrupting.afterRead 3 0x80).cell 0 3) = (0x80, 0x00) := by decide

/-- With IER never armed a completed transmission raises no TI, and enabling it later does not either (R346). -/
theorem test_unarmed_ti :
    let c := ((operatingController.setCell 4 0x00).startTransmission false false).endTransmission (fun _ => 0) true
    c.statusRegister = 0x1C ∧ c.cell 0 3 = 0x00 ∧ (c.afterWrite 128 4 0xFF).cell 0 3 = 0x00 := by decide

/-! ### Witnesses: the hypotheses of each statement can be met, clause by clause -/

/-- `s` with these inputs lined up. -/
def given (inputs : List Input) (s : State) : State := s.withInputs inputs

/-- A command with all operand lines zero. -/
def command (w : Byte) : Input := .command w OperandLines.zero

/-- The state an operating controller answers from its own registers in. -/
def answeringItself (n : Nat) (c : Controller) : State :=
  (operating 0x00 (List.replicate n .held)).withController c

theorem witness_CommandDecodesExactlyFifteenWords :
    (1 ≤ (0x01 : Byte).toNat ∧ (0x0F : Byte).toNat ≤ 15) ∧ ((0x00 : Byte).toNat = 0 ∧ 16 ≤ (0x10 : Byte).toNat) := by
  decide

theorem witness_DecodeAndEncodeAgree :
    decode (.command 0x0F OperandLines.zero) = .ok (.txReadback 0) ∧ decode (.cmr 0x12) = .ok .cmrSrrAt ∧
    decode (.image 0xFF (Vector.replicate 12 0)) = .ok (.bufEff true 3 15 (Vector.replicate 12 0)) := ⟨rfl, rfl, rfl⟩

/-- A state whose controller has latched this byte. -/
def latched (b : Byte) : State :=
  given [.controller] (State.reset.withController { Controller.reset with latch := [b, 0x04] })

theorem witness_StepRunsTheDecodedInstruction :
    (given [command 0x09] State.reset).inputs = command 0x09 :: [] ∧
    decode (.command 0x09 OperandLines.zero) = .ok .reset ∧
    (given [.image 0x80 (Vector.replicate 12 0)] State.reset).inputs = .image 0x80 (Vector.replicate 12 0) :: [] ∧
    (latched 0x02).inputs = .controller :: [] ∧ (latched 0x02).controller.resetRequested = false ∧
    (latched 0x02).controller.latch = 0x02 :: [0x04] ∧ decode (.cmr 0x02) = .ok .cmrAt ∧ State.reset.inputs = [] :=
  ⟨rfl, rfl, rfl, rfl, rfl, rfl, rfl, rfl⟩

theorem witness_RejectedWordsRunNothing :
    (given [command 0x00] State.reset).inputs = .command 0x00 OperandLines.zero :: [] ∧ (0x00 : Byte).toNat = 0 ∧
    (given [command 0x10] State.reset).inputs = .command 0x10 OperandLines.zero :: [] ∧ 16 ≤ (0x10 : Byte).toNat ∧
    (latched 0x05).inputs = .controller :: [] ∧ (latched 0x05).controller.resetRequested = false ∧
    (latched 0x05).controller.latch = 0x05 :: [0x04] ∧
    (0x05 : Byte) ∉ [0b00000001, 0b00000010, 0b00000011, 0b00000100, 0b00001000, 0b00010000, 0b00010010] := by decide

theorem witness_TxImageListsTheLayout :
    frameWf frameC = true ∧ frameWf { frameA with id := 0x7FF } = true ∧ frameWf frameB = true := by decide

theorem witness_FrameRoundTrip :
    frameWf frameA = true ∧ ∀ p ∈ txImage frameA, imageByte imageA p.1 = p.2 := by decide

/-- DE6 against W1: frame-info bits 5:4, bits 4:0 of the last identifier byte and a byte past the data differ. -/
def imageA' : Image := #v[0x32, 0x24, 0x7F, 0xAA, 0xBB, 0x99, 0, 0, 0, 0, 0, 0, 0]

theorem witness_DecoderIgnoresUnassignedBits :
    imageByte imageA 0 &&& 0xCF = imageByte imageA' 0 &&& 0xCF ∧
    (∀ k < imageLength (imageByte imageA 0), 1 ≤ k → k ≠ idLength (imageByte imageA 0) →
      imageByte imageA k = imageByte imageA' k) ∧
    (imageByte imageA 0).getLsbD 7 = false ∧ idLength (imageByte imageA 0) = 2 ∧
    imageByte imageA 2 &&& 0xE0 = imageByte imageA' 2 &&& 0xE0 ∧ imageA ≠ imageA' := by decide

/-- A nonzero ignored bit of byte 0, of the last identifier byte, a DLC of 9, and a slot past the length. -/
theorem witness_EncoderInjective :
    (frameWf frameC = true ∧ txImage frameC = txImage frameC) ∧ imageByte imageA' 0 &&& 0x30 ≠ 0 ∧
    (imageByte imageA' (idLength (imageByte imageA' 0)) &&& 0x1F ≠ 0 ∧ (imageByte imageA' 0).getLsbD 7 = false) ∧
    8 < (imageByte (imageA.set 0 0x09) 0).toNat % 16 ∧ imageLength (imageByte imageA 0) ≤ 5 := by decide

theorem witness_EncodeCompletes : frameWf frameB = true ∧ frameWf frameBad = false := by decide

theorem witness_TransmitRefusalsInOrder :
    ((answering []).withDevFault true).devFault = true ∧
    ((answering []).devFault = false ∧ frameWf frameBad = false) ∧
    (frameWf frameA = true ∧ ((answering []).withClass .busOff).devFault = false ∧
      ((answering []).withClass .busOff).busClass = .busOff) ∧
    (State.reset.devFault = false ∧ State.reset.busClass ≠ .busOff ∧ State.reset.mode.op ≠ .operating ∧
      (operating 0x02 []).mode.lom = true ∧ (operating 0x10 []).mode.sm = true) ∧
    ((busy []).devFault = false ∧ (busy []).busClass ≠ .busOff ∧ (busy []).mode.op = .operating ∧
      (busy []).mode.lom = false ∧ (busy []).mode.sm = false ∧ (busy []).status.txBusy = true) := by decide

theorem canonical_operating (m : Byte) (answers : List Config.Answer) : (operating m answers).memoryCanonical := by
  unfold State.memoryCanonical operating after exec execSetMode State.emitIfChanged State.enterMode
  dsimp only
  repeat' split
  all_goals rfl

theorem witness_TransmissionsComplete :
    (answering (List.replicate 14 0)).memoryCanonical ∧ (answering (List.replicate 14 0)).admitsTransmit frameC ∧
    (answering (List.replicate 14 0)).respondsFor ((txImage frameC).length + 1) ∧
    (operating 0x04 (List.replicate 6 .held)).admitsTransmit frameB ∧
    (operating 0x04 (List.replicate 6 .held)).respondsFor ((txImage frameB).length + 1) :=
  ⟨canonical_operating _ _, by decide, by decide, by decide, by decide⟩

/-- The first write, and the command write, get no response. -/
theorem witness_TransmitWithoutResponse :
    ((operating 0x00 [.noresp]).memoryCanonical ∧ (operating 0x00 [.noresp]).admitsTransmit frameB ∧
      (operating 0x00 [.noresp]).respondsFor 0 ∧ (operating 0x00 [.noresp]).answerAt 0 = .noresp) ∧
    ((operating 0x00 (List.replicate 5 .held ++ [.noresp])).memoryCanonical ∧
      (operating 0x00 (List.replicate 5 .held ++ [.noresp])).admitsTransmit frameB ∧
      5 ≤ (txImage frameB).length ∧ (operating 0x00 (List.replicate 5 .held ++ [.noresp])).respondsFor 5 ∧
      (operating 0x00 (List.replicate 5 .held ++ [.noresp])).answerAt 5 = .noresp) :=
  ⟨⟨canonical_operating _ _, by decide, by decide, by decide⟩,
    canonical_operating _ _, by decide, by decide, by decide, by decide⟩

theorem witness_AbortCompletes :
    ((answering []).withDevFault true).devFault = true ∧
    ((answering []).devFault = false ∧ (answering []).status.txBusy = false) ∧
    ((busy [.held]).devFault = false ∧ (busy [.held]).status.txBusy = true ∧ (busy [.held]).respondsFor 1) ∧
    ((busy [.noresp]).devFault = false ∧ (busy [.noresp]).status.txBusy = true ∧
      (busy [.noresp]).answerAt 0 = .noresp) := by decide

theorem witness_TxReadbackCompletes :
    ((answering []).withDevFault true).devFault = true ∧ (answering []).devFault = false ∧ 12 < (13 : Byte).toNat ∧
    (12 : Byte).toNat ≤ 12 ∧ (answering [0x60]).respondsFor 1 ∧ (answering [0x60]).answerAt 0 = .byte 0x60 ∧
    (operating 0x00 [.noresp]).devFault = false ∧ (operating 0x00 [.noresp]).answerAt 0 = .noresp := by decide

theorem witness_NoBufferWriteWhileBusy : (busy []).status.txBusy = true := by decide

theorem witness_TryReceiveRefusals :
    ((answering []).withDevFault true).devFault = true ∧ State.reset.devFault = false ∧
    State.reset.mode.op ≠ .operating ∧ (operating 0x16 []).devFault = false ∧
    (operating 0x16 []).mode.op = .operating := by decide

theorem witness_TryReceiveFindsNothing :
    (answering [0x02]).devFault = false ∧ (answering [0x02]).mode.op = .operating ∧
    (answering [0x02]).readValue 2 = some 0x02 ∧ (0x02 : Byte).getLsbD 0 = false := by decide

theorem witness_TryReceiveDrainsAMessage :
    (let s := operating 0x00 ([0x01, 0x40, 0, 0, 0x02, 0].map .byte ++ [.noresp])
     s.devFault = false ∧ s.mode.op = .operating ∧ s.readValue 2 = some 0x01 ∧ (0x01 : Byte).getLsbD 0 = true ∧
      { s with accesses := s.accesses + 1 }.readValue 16 = some 0x40 ∧ s.status.dataOverrun = false ∧
      s.respondsFor (imageLength 0x40 + 3) ∧ s.answerAt (imageLength 0x40 + 3) = .noresp) ∧
    (let s := (answering (0x01 :: 0x88 :: List.replicate 15 0)).setDataOverrun true
     { s with accesses := s.accesses + 1 }.readValue 16 = some 0x88 ∧ s.respondsFor (imageLength 0x88 + 4)) ∧
    (let s := (operating 0x00
        [.byte 0x01, .byte 0x40, .byte 0, .byte 0, .byte 0x02, .byte 0, .noresp]).setDataOverrun true
     s.devFault = false ∧ s.mode.op = .operating ∧ s.readValue 2 = some 0x01 ∧
      { s with accesses := s.accesses + 1 }.readValue 16 = some 0x40 ∧ s.respondsFor 6 ∧
      s.answerAt (s.accesses + 6) = .noresp ∧ s.status.dataOverrun = true ∧ imageLength 0x40 = 3) ∧
    (operating 0x00 [.noresp]).respondsFor 0 ∧ (operating 0x00 [.noresp]).answerAt 0 = .noresp := by decide

theorem witness_TryReceiveReturnsTheOldestMessage :
    let s := answeringItself 8 ((operatingController.receive imageA).receive imageB)
    s.devFault = false ∧ s.mode.op = .operating ∧ (∀ k < 5 + 2, s.answerAt (s.accesses + k) = .held) ∧
    s.status.dataOverrun = false ∧ s.respondsFor (5 + 3) ∧ s.controller.inResetMode = false ∧ s.controller.fifoCount = 2 ∧ imageLength (imageByte imageA 0) = 5 ∧
    ∀ k < 5, s.controller.regs.read (s.controller.bufferCell k) = some (imageByte imageA k) := by decide

theorem witness_DecodeAlcCompletes :
    (0x0A : Byte).toNat % 32 ≤ 10 ∧ (0x2B : Byte).toNat % 32 = 11 ∧ (0x4C : Byte).toNat % 32 = 12 ∧
    (13 ≤ (0x0D : Byte).toNat % 32 ∧ (0x1E : Byte).toNat % 32 ≤ 30) ∧ (0xFF : Byte).toNat % 32 = 31 := by decide

theorem witness_HandleInterruptCompletes :
    (let s := answering (0xFF :: List.replicate 7 0)
     s.devFault = false ∧ s.readValue 3 = some 0xFF ∧ s.respondsFor 8 ∧ s.answerAt 0 = .byte 0xFF ∧
      s.memoryCanonical) ∧
    (let s := operating 0x00 [.byte 0x01, .noresp]
     s.devFault = false ∧ s.readValue 3 = some 0x01 ∧ s.respondsFor 1 ∧ s.answerAt 1 = .noresp) :=
  ⟨⟨by decide, by decide, by decide, by decide, canonical_operating _ _⟩, by decide⟩

theorem witness_SpuriousInterruptChangesNothing :
    (answering [0x00]).memoryCanonical ∧ (answering [0x00]).devFault = false ∧
    (answering [0x00]).readValue 3 = some 0x00 := ⟨canonical_operating _ _, by decide, by decide⟩

theorem witness_InterruptReadsIrOnceAndWritesNothing : (operating 0x00 [.noresp]).devFault = false := by decide

theorem witness_AckEventsCompletes :
    (answering []).status.arbLost = false ∧ (answering []).status.busError = false := by decide

/-- The first of the reads after IR lost, and the last of seven. -/
theorem witness_LostReadKeepsWhatWasWritten :
    let s := operating 0x00 [.byte 0x88, .noresp]
    let t := operating 0x00 (List.replicate 7 (.byte 0xFF) ++ [.noresp])
    (operating 0x00 [.noresp]).devFault = false ∧ (operating 0x00 [.noresp]).answerAt 0 = .noresp ∧
    s.devFault = false ∧ s.readValue 3 = some 0x88 ∧ s.respondsFor (0 + 1) ∧
    s.answerAt (s.accesses + (0 + 1)) = .noresp ∧ 0 < ([12] : List Offset).length ∧
    t.devFault = false ∧ t.readValue 3 = some 0xFF ∧ t.respondsFor (6 + 1) ∧
    t.answerAt (t.accesses + (6 + 1)) = .noresp ∧ 6 < ([12, 11, 2, 13, 14, 15, 2] : List Offset).length ∧
    t.memoryCanonical :=
  ⟨by decide, by decide, by decide, by decide, by decide, by decide, by decide, by decide, by decide, by decide,
    by decide, by decide, canonical_operating _ _⟩

/-- A lost TI read of SR keeps tx_busy, and msg_waiting and the class are set. -/
theorem test_lost_transmit_read :
    let t := after (exec .handleInterrupt
      ((operating 0x00 [.byte 0x07, .byte 0, .byte 96, .byte 0, .byte 100, .noresp]).setTxBusy true))
    t.status.txBusy = true ∧ t.status.msgWaiting = true ∧ t.busClass = .warning ∧ t.devFault = true := by decide

/-- A lost CDO write leaves the new msg_waiting, data_overrun at 1, and only RRB latched. -/
theorem test_lost_overrun_acknowledgment :
    let t := after (exec .tryReceive ((operating 0x00
      [.byte 0x01, .byte 0x40, .byte 0, .byte 0, .byte 0x02, .byte 0, .noresp]).setDataOverrun true))
    t.status.msgWaiting = true ∧ t.status.dataOverrun = true ∧ t.controller.latch = [0x04] := by decide

theorem witness_SetModeCompletes :
    State.reset.devFault = false ∧ (0x1F : Byte).toNat < 32 ∧ 32 ≤ (0x20 : Byte).toNat ∧
    ((answering []).withDevFault true).devFault = true := by decide

theorem witness_DeviceFaultRefusesAccess : ((answering []).withDevFault true).devFault = true := by decide

theorem witness_OnlyResetClearsTheFault :
    let s := given [command 0x09] ((answering []).withDevFault true)
    s.devFault = true ∧ step s = .next (after (step s)) ∧ (after (step s)).devFault = false :=
  ⟨rfl, rfl, rfl⟩

theorem witness_NoResponseTakesTheExit :
    (operating 0x00 [.noresp]).devFault = false ∧ (after (exec .tryReceive (operating 0x00 [.noresp]))).devFault = true ∧
    .noResp 2 ∈ (after (exec .tryReceive (operating 0x00 [.noresp]))).log := by decide

theorem witness_RefusalsLeaveNoTrace :
    Instr.tryReceive ∉ [Instr.cmrTr, .cmrSrr, .cmrTrAt, .cmrSrrAt, .cmrAt, .cmrRrb, .cmrCdo] ∧
    reply (after (exec .tryReceive State.reset)) = (.notOperating, .none) := by decide

theorem witness_CmrCommandsComplete :
    loaded.memoryCanonical ∧ State.reset.controller.inFlight = none ∧
    loaded.controller.inFlight = some ⟨false, false, false⟩ ∧ State.reset.controller.fifoCount = 0 ∧
    loaded.controller.fifoCount = 2 ∧
    loaded.controller.regs.read (loaded.controller.bufferCell 0) = some 0x02 :=
  ⟨rfl, rfl, rfl, rfl, rfl, rfl⟩

/-- Both modes, both ends of the overlay, and a FIFO whose buffer lies at its end. -/
theorem witness_RegisterMapShowsTheController :
    Controller.reset.inResetMode = true ∧ operatingController.inResetMode = false ∧
    operatingController.regs.wf = true ∧ Controller.reset.regs.wf = true ∧
    ((operatingController.moveBuffer 63).receive imageA).bufferCell 12 = 43 ∧
    (3 : Offset).toNat ∉ [2, 29] ∧ (15 : Offset).toNat < 16 ∧ 28 < (30 : Offset).toNat := by decide

theorem witness_TxShadowShowsTheLastWrite :
    let s := answeringItself 1 (operatingController.afterWrite 128 28 0x5A)
    operatingController.regs.wf = true ∧ operatingController.inResetMode = false ∧
    operatingController.txPending = false ∧ s.controller = operatingController.afterWrite 128 28 0x5A ∧
    s.devFault = false ∧ s.answerAt s.accesses = .held := by decide

theorem witness_ReadSideEffects : interrupting.regs.wf = true := by decide

theorem witness_WriteSideEffects :
    (operatingController.inResetMode = false ∧
      (operatingController.startTransmission false false).inResetMode = false ∧
      (operatingController.startTransmission false false).txPending = true) ∧
    ((127 : Offset).toNat ∉ [0, 1, 4, 9, 31] ∧ (29 : Offset).toNat ∉ [0, 1, 4, 9, 31] ∧
      ¬ (16 ≤ (29 : Offset).toNat ∧ (29 : Offset).toNat ≤ 28) ∧ (10 : Offset).toNat ∉ [0, 1, 4, 9, 31]) ∧
    (Controller.reset.inResetMode = true ∧ (12 : Offset).toNat ∈ [2, 3, 5, 10, 11, 12, 29] ∧ 24 ≤ (24 : Offset).toNat ∧
      96 ≤ (96 : Offset).toNat) ∧
    (Controller.reset.regs.wf = true ∧ (31 : Offset).toNat ∈ [4, 31] ∧ (30 : Offset).toNat ∈ [6, 7, 8, 30] ∧
      16 ≤ (23 : Offset).toNat ∧ 32 ≤ (95 : Offset).toNat) := by decide

/-- A FIFO of 60 bytes: a message of 5 does not fit, one of 3 does. -/
def nearlyFull : Controller := { operatingController with fifoCount := 20, fifoEnd := 60 }

theorem witness_MessagesQueueInTheFifo :
    nearlyFull.onBus = true ∧ (nearlyFull.shows 0 0).getLsbD 4 = false ∧ Controller.reset.onBus = false ∧
    (operatingController.setCell 0 0x10).onBus = true ∧ ((operatingController.setCell 0 0x10).shows 0 0).getLsbD 4 = true ∧
    nearlyFull.regs.wf = true ∧ nearlyFull.fifoCount ≠ 0 ∧
    (nearlyFull.shows 0 30, nearlyFull.fifoEnd) = (0x00, 60) ∧ imageLength (imageByte imageB 0) ≤ (0 + 64 - 60) % 64 ∧
    (0 + 64 - 60) % 64 < imageLength (imageByte imageA 0) ∧ operatingController.fifoCount = 0 ∧
    operatingController.inResetMode = false ∧ operatingController.regs.wf = true := by decide

theorem witness_TransmissionEndsReleaseTheBuffer :
    let c := operatingController.startTransmission true true
    operatingController.inFlight = none ∧ c.regs.wf = true ∧ c.inFlight = some ⟨true, true, false⟩ ∧
    c.latch.any requestsTransmission = false ∧ (c.afterWrite 128 1 0x10).latch.any requestsTransmission = true ∧
    ((c.onEvent {} (fun _ => 0) (.transmitEnd false)).cell 0 3).getLsbD 1 = true ∧ (c.cell 0 3).getLsbD 1 = false ∧
    (0x02 : Byte).getLsbD 5 = false ∧ c.mayTransmit = true ∧ (c.setCell 0 0x02).mayTransmit = false ∧
    (c.setCell 2 0xBC).mayTransmit = false ∧ (c.shows 0 0).getLsbD 4 = false ∧
    ((c.setCell 0 0x10).shows 0 0).getLsbD 4 = true ∧ (c.setCell 0 0x10).onBus = true := by decide

/-- A write of EWLR 0x00 in reset mode reaches both counters, a TXERR of 128 the passive limit. -/
theorem witness_ErrorEventsRaiseTheirInterrupts :
    Controller.reset.regs.wf = true ∧ (13 : Offset).toNat ∈ [13, 14, 15] ∧ Controller.reset.inResetMode = true ∧
    ((Controller.reset.setCell 4 0xFF).afterWrite 128 13 0x00).cell 0 3 = 0x04 ∧
    ((Controller.reset.setCell 4 0xFF).afterWrite 128 15 0x80).cell 0 3 = 0x24 ∧
    (Controller.reset.cell 0 4).getLsbD 1 = false ∧ (Controller.reset.cell 0 3).getLsbD 1 = false ∧ isStored (31 : Offset).toNat = true ∧
    (31 : Offset).toNat ∉ [2, 3, 13, 14, 15] ∧ Controller.reset.inFlight = none ∧ Controller.reset.onBus = false ∧
    operatingController.onBus = true ∧ operatingController.inFlight = none ∧ (0x20 : Byte).getLsbD 5 = true ∧
    (operatingController.cell 0 0).getLsbD 4 = false ∧ (operatingController.setCell 0 0x10).onBus = true ∧
    ((operatingController.setCell 0 0x10).cell 0 0).getLsbD 4 = true := by decide

/-- From error-passive to bus-off EPI and EI are raised; from bus-off to active EI alone. -/
theorem test_bus_off_leaves_error_passive :
    let passive := operatingController.onEvent {} (fun _ => 0) (.errorCounters 0 128 false)
    let off := (passive.setCell 3 0).onEvent {} (fun _ => 0) (.errorCounters 0 255 true)
    passive.cell 0 3 = 0x24 ∧ off.cell 0 3 = 0x24 ∧
    ((off.setCell 3 0).onEvent {} (fun _ => 0) (.errorCounters 0 0 false)).cell 0 3 = 0x04 := by decide

/-- In reset mode no message arrives, and a transmission waits. -/
theorem test_no_bus_in_reset_mode :
    let c := Controller.reset.startTransmission false false
    (c.onEvent {} (fun _ => 0) (.message imageA)).fifoCount = 0 ∧
    (c.onEvent {} (fun _ => 0) (.transmitEnd true)).inFlight = some ⟨false, false, false⟩ := by decide

theorem witness_PlatformDeliversPendingInterrupts :
    (given [.platform] (State.reset.withController interrupting)).inputs = .platform :: [] ∧
    ((interrupting.cell 0 3).getLsbD 7 = true ∧ (interrupting.cell 0 4).getLsbD 7 = true) ∧
    ∀ j < 8, ¬ ((Controller.reset.cell 0 3).getLsbD j = true ∧ (Controller.reset.cell 0 4).getLsbD j = true) := by
  decide

theorem witness_ControllerActsWithoutTheCfc :
    let s := given [.environment .wakeUp, .controller] State.reset
    s.inputs = .environment .wakeUp :: [.controller] ∧ step s = .next (after (step s)) ∧
    (after (step s)).inputs = .controller :: [] ∧ (after (step s)).controller.resetRequested = false ∧
    (after (step s)).controller.latch = [] ∧ step (after (step s)) = .next (after (step (after (step s)))) ∧
    (given [.controller] (after (exec .reset State.reset))).controller.resetRequested = true :=
  ⟨rfl, rfl, rfl, rfl, rfl, rfl, rfl⟩

/-- One step that runs HANDLE_INTERRUPT to WARNING meets the hypotheses of all three invariants. -/
theorem witness_StepKeepsInvariants :
    let s := given [command 0x05] (answering [0x04, 0x40, 96, 0, 100])
    s.healthConsistent ∧ s.memoryCanonical ∧ s.logBracketed ∧ step s = .next (after (step s)) ∧
    (after (step s)).busClass = .warning := by
  refine ⟨?_, rfl, ?_, ?_, ?_⟩
  · unfold State.healthConsistent; decide
  · unfold State.logBracketed; decide
  · rfl
  · decide

theorem witness_FlagWriters :
    (answering [0x09]).status.msgWaiting = false ∧
    (after (exec .handleInterrupt (answering [0x09]))).status.msgWaiting = true ∧
    (after (exec .handleInterrupt (answering [0x09]))).status.dataOverrun = true ∧
    (busy []).status.txBusy = true ∧ (after (exec (.setMode 0x01) (busy []))).status.txBusy = false := by decide

theorem witness_ClassModeAndCaptureWriters :
    (after (exec .handleInterrupt (answering [0x04, 0x80, 96, 0, 0]))).busClass ≠ (answering []).busClass ∧
    (after (exec (.setMode 0x00) ((answering []).withClass .busOff))).busClass = .active ∧
    (after (exec .handleInterrupt (answering [0x04, 0x80, 96, 0, 0]))).mode ≠ (answering []).mode ∧
    (after (exec .handleInterrupt (answering [0xC0, 0x8A, 0x0D]))).eccCap ≠ (answering []).eccCap ∧
    (after (exec .handleInterrupt (answering [0xC0, 0x8A, 0x0D]))).alcCap ≠ (answering []).alcCap := by decide

theorem witness_LogOnlyGrows :
    step (given [command 0x07] State.reset) = .next (after (step (given [command 0x07] State.reset))) := rfl

theorem witness_OverrunAcknowledgedAfterRelease :
    [LogEntry.sel, .rd 2 0x03, .rd 16 0x40, .rd 17 0x24, .rd 18 0x60, .rd 29 0x02, .wr 1 0x04] ++ .wr 1 0x08 :: [.desel,
      .frameReceived { frameA with rtr := true, dlc := 0, data := [] }, .statusChange 0x007 .active] =
    (after (exec .tryReceive ((answering [0x03, 0x40, 0x24, 0x60, 0x02, 0, 0]).setDataOverrun true))).log := by decide

theorem witness_StatusChangeExactlyWhenChanged :
    Instr.ackEvents ≠ .reset ∧ LogEntry.statusChange 0x005 .active ∈
      (after (exec .ackEvents ((answering []).setArbLost true))).log := by decide

theorem witness_EveryAccessGetsItsAnswer :
    (answering [0x00]).answerAt 0 = .byte 0x00 ∧
    (after (exec .handleInterrupt (answering [0x00]))).log.filter LogEntry.isAccess = [.rd 3 0x00] ∧
    (operating 0x00 [.noresp]).answerAt 0 = .noresp ∧
    (after (exec .handleInterrupt (operating 0x00 [.noresp]))).log.filter LogEntry.isAccess = [.noResp 3] ∧
    (answeringItself 2 interrupting).answerAt 0 = .held ∧
    (after (exec .handleInterrupt (answeringItself 2 interrupting))).log.filter LogEntry.isAccess =
      [.rd 3 0x80, .rd 12 0x00] := by decide

theorem witness_AccessMatrix :
    LogEntry.rd 3 0x00 ∈ (after (exec .handleInterrupt (answering [0x00]))).log ∧
    LogEntry.wr 1 0x02 ∈ (after (exec .abort (busy [.byte 0]))).log := by decide

end Sys2Proof.Tests
end

section
/-! The two statements of 00_scope.md: a step runs the decoded instruction (R8), and an access without response takes
the exit (R16). First what the accesses of each operation can do, for any property of what they log; then the end of
an operation; then the two statements. -/

namespace Sys2Proof.Machine

/-! ### What the flags and the class leave alone -/

/-- The flags are no part of the port. -/
theorem samePort_withStatus (s : State) (x : ControllerStatus) : SamePort s (s.withStatus x) :=
  ⟨rfl, rfl, rfl, rfl, rfl, le_refl _⟩

@[simp] theorem State.applyClass_log (s : State) (cls : BusClass) : (s.applyClass cls).log = s.log := by
  unfold State.applyClass
  repeat' split
  all_goals rfl

theorem samePort_applyClass (s : State) (cls : BusClass) : SamePort s (s.applyClass cls) := by
  unfold State.applyClass
  repeat' split
  all_goals exact ⟨rfl, rfl, rfl, rfl, rfl, le_refl _⟩

@[simp] theorem State.enterMode_log (s : State) (m : ModeView) : (s.enterMode m).log = s.log := by
  unfold State.enterMode
  cases m.op with
  | operating => dsimp only; split <;> rfl
  | reset => rfl

@[simp] theorem State.enterMode_devFault (s : State) (m : ModeView) : (s.enterMode m).devFault = s.devFault := by
  unfold State.enterMode
  cases m.op with
  | operating => dsimp only; split <;> rfl
  | reset => rfl

/-! ### The accesses of each operation -/

/-- A sequence may go on from a state whose flags were changed. -/
theorem Access.Follows.of_withStatus {α : Type} {s : State} {x : ControllerStatus} {P : LogEntry → Prop}
    {a : Access α} (h : a.Follows (s.withStatus x) P) : a.Follows s P :=
  h.from rfl (samePort_withStatus s x)

/-- `P` holds of a read at this offset, whatever it answers, and of one without response. -/
def AllowsRead (P : LogEntry → Prop) (off : Offset) : Prop := (∀ v, P (.rd off v)) ∧ P (.noResp off)

/-- `P` holds of this write, and of one at its offset without response. -/
def AllowsWrite (P : LogEntry → Prop) (off : Offset) (v : Byte) : Prop := P (.wr off v) ∧ P (.noResp off)

theorem AllowsRead.follows {P : LogEntry → Prop} {off : Offset} (h : AllowsRead P off) (s : State) :
    (regRead off s).Follows s P := regRead_follows off s P h.1 h.2

theorem AllowsWrite.follows {P : LogEntry → Prop} {off : Offset} {v : Byte} (h : AllowsWrite P off v) (s : State) :
    (regWrite off v s).Follows s P := regWrite_follows off v s P h.1 h.2

/-- TRANSMIT and TRANSMIT_SS: the buffer writes, then the command byte (41_transmit.md R172). -/
theorem transmitAccesses_follows {P : LogEntry → Prop} {command : Byte} {f : Frame}
    (hbuf : ∀ w ∈ bufferWrites f, AllowsWrite P w.1 w.2) (hcmr : AllowsWrite P 1 command) (s : State) :
    ((regWriteAll (bufferWrites f) s).andThen fun _ t => regWrite 1 command (t.setTxBusy true)).Follows s P :=
  (regWriteAll_follows _ s P hbuf).andThen fun _ t => (hcmr.follows (t.setTxBusy true)).of_withStatus

/-- The receive buffer: bytes 0 to 12 at most (42_receive.md R203). -/
theorem readFrame_follows {P : LogEntry → Prop} (hbuf : ∀ k ≤ 12, AllowsRead P (bufferOffset k)) (s : State) :
    (readFrame s).Follows s P := by
  refine ((hbuf 0 (by decide)).follows s).andThen fun info t => ?_
  have hrest : ∀ off ∈ (restIndices info).map bufferOffset, AllowsRead P off :=
    List.forall_mem_map.mpr fun k hk => hbuf k (restIndices_le info k hk).2
  exact (regReadAll_follows _ t P hrest).andThen fun rest u => follows_going _ rfl (SamePort.refl u)

/-- The overrun acknowledgment: CDO or nothing (42_receive.md R207). -/
theorem acknowledgeOverrun_follows {P : LogEntry → Prop} (hcdo : AllowsWrite P 1 0x08) (s : State) :
    (acknowledgeOverrun s).Follows s P := by
  unfold acknowledgeOverrun
  split
  · exact (hcdo.follows s).andThen fun _ t => follows_going _ rfl (samePort_withStatus t _)
  · exact follows_going _ rfl (SamePort.refl s)

/-- TRY_RECEIVE: SR, then the drain where a message waits (42_receive.md R202 to R207). -/
theorem receiveAccesses_follows {P : LogEntry → Prop} (hsr : AllowsRead P 2)
    (hbuf : ∀ k ≤ 12, AllowsRead P (bufferOffset k)) (hrmc : AllowsRead P 29) (hrrb : AllowsWrite P 1 0x04)
    (hcdo : AllowsWrite P 1 0x08) (s : State) : (receiveAccesses s).Follows s P := by
  refine (hsr.follows s).andThen fun sr t => ?_
  split
  · refine (readFrame_follows hbuf t).andThen fun f u => (hrmc.follows u).andThen fun rmc v =>
      (hrrb.follows v).andThen fun _ w => ?_
    exact ((acknowledgeOverrun_follows hcdo (w.setMsgWaiting (w.moreMessages rmc))).of_withStatus).andThen fun _ x =>
      follows_going _ rfl (SamePort.refl x)
  · exact follows_going _ rfl (samePort_withStatus t _)

/-- BEI: ECC or nothing (43_status_decoder.md R247). -/
theorem onBusError_follows {P : LogEntry → Prop} (hecc : AllowsRead P 12) (ir : Byte) (s : State) :
    (onBusError ir s).Follows s P := by
  unfold onBusError
  split
  · exact ((hecc.follows (s.setBusError true)).of_withStatus).andThen fun v t =>
      follows_going _ rfl ⟨rfl, rfl, rfl, rfl, rfl, le_refl _⟩
  · exact follows_going _ rfl (SamePort.refl s)

/-- ALI: ALC or nothing (43_status_decoder.md R248). -/
theorem onArbLost_follows {P : LogEntry → Prop} (halc : AllowsRead P 11) (ir : Byte) (s : State) :
    (onArbLost ir s).Follows s P := by
  unfold onArbLost
  split
  · exact ((halc.follows (s.setArbLost true)).of_withStatus).andThen fun v t =>
      follows_going _ rfl ⟨rfl, rfl, rfl, rfl, rfl, le_refl _⟩
  · exact follows_going _ rfl (SamePort.refl s)

/-- EPI or EI: SR, EWLR, RXERR and TXERR, or nothing (43_status_decoder.md R241, R249). -/
theorem onErrorState_follows {P : LogEntry → Prop} (hsr : AllowsRead P 2) (hewlr : AllowsRead P 13)
    (hrxerr : AllowsRead P 14) (htxerr : AllowsRead P 15) (ir : Byte) (s : State) :
    (onErrorState ir s).Follows s P := by
  unfold onErrorState
  split
  · exact (hsr.follows s).andThen fun sr t => (hewlr.follows t).andThen fun ewlr u =>
      (hrxerr.follows u).andThen fun rxerr v => (htxerr.follows v).andThen fun txerr w =>
        follows_going _ (State.applyClass_log w _) (samePort_applyClass w _)
  · exact follows_going _ rfl (SamePort.refl s)

/-- TI: SR or nothing (43_status_decoder.md R251). -/
theorem onTransmit_follows {P : LogEntry → Prop} (hsr : AllowsRead P 2) (ir : Byte) (s : State) :
    (onTransmit ir s).Follows s P := by
  unfold onTransmit
  split
  · exact (hsr.follows s).andThen fun sr t => follows_going _ rfl (samePort_withStatus t _)
  · exact follows_going _ rfl (SamePort.refl s)

/-- DOI sets a flag at most, so what follows may start before it (43_status_decoder.md R246). -/
theorem Access.Follows.of_onOverrun {α : Type} {ir : Byte} {s : State} {P : LogEntry → Prop} {a : Access α}
    (h : a.Follows (onOverrun ir s) P) : a.Follows s P := by
  unfold onOverrun at h
  split at h
  · exact h.of_withStatus
  · exact h

/-- RI sets a flag at most, so what follows may start before it (43_status_decoder.md R250). -/
theorem Access.Follows.of_onReceive {α : Type} {ir : Byte} {s : State} {P : LogEntry → Prop} {a : Access α}
    (h : a.Follows (onReceive ir s) P) : a.Follows s P := by
  unfold onReceive at h
  split at h
  · exact h.of_withStatus
  · exact h

/-- HANDLE_INTERRUPT: IR, then the branches of its snapshot (43_status_decoder.md R253, R254). -/
theorem interruptAccesses_follows {P : LogEntry → Prop}
    (hread : ∀ off ∈ ([2, 3, 11, 12, 13, 14, 15] : List Offset), AllowsRead P off) (s : State) :
    (interruptAccesses s).Follows s P := by
  have hsr := hread 2 (by decide)
  have branches (ir : Byte) (t : State) : (dispatchSnapshot ir t).Follows t P :=
    (onBusError_follows (hread 12 (by decide)) ir _).of_onOverrun.andThen fun _ u =>
      (onArbLost_follows (hread 11 (by decide)) ir u).andThen fun _ v =>
        (onErrorState_follows hsr (hread 13 (by decide)) (hread 14 (by decide)) (hread 15 (by decide)) ir v).andThen
          fun _ w => (onTransmit_follows hsr ir _).of_onReceive
  exact ((hread 3 (by decide)).follows s).andThen fun ir t =>
    (branches ir t).andThen fun done u => follows_going _ rfl (SamePort.refl u)

/-! ### The end of an operation (00_scope.md R16) -/

/-- From `s` to `t` no access without response was logged, and the fault was not set. -/
def NothingLost (s t : State) : Prop :=
  ∃ seg, t.log = s.log ++ seg ∧ (∀ off, LogEntry.noResp off ∉ seg) ∧ (t.devFault = true → s.devFault = true)

/-- What R16 asks of an operation from `s` to `t`: a lost access is the last one, the deselect and at most the status
change follow, the fault is set and reported; and the fault is set only that way. -/
def ExitsOnLoss (s t : State) : Prop :=
  ∃ seg, t.log = s.log ++ seg ∧
    ((∃ off, LogEntry.noResp off ∈ seg) →
      t.devFault = true ∧ t.response = some { result := .deviceNotResponding, outs := .none } ∧
      ∃ accs off, (∀ o, LogEntry.noResp o ∉ accs) ∧ accs.all LogEntry.isAccess = true ∧
        seg = .sel :: (accs ++ [.noResp off, .desel] ++ statusChangeBetween s t)) ∧
    (s.devFault = false → t.devFault = true → ∃ off, LogEntry.noResp off ∈ seg)

theorem nothingLost_of_same {s t : State} (hl : t.log = s.log) (hf : t.devFault = true → s.devFault = true) :
    NothingLost s t := ⟨[], by simp [hl], by simp, hf⟩

theorem NothingLost.refl (s : State) : NothingLost s s := nothingLost_of_same rfl id

theorem nothingLost_respond (s : State) (r : Result) (o : Outputs) : NothingLost s (s.respond r o) :=
  nothingLost_of_same rfl id

theorem NothingLost.trans {s t u : State} (h : NothingLost s t) (g : NothingLost t u) : NothingLost s u := by
  obtain ⟨seg, hlog, hnone, hfault⟩ := h
  obtain ⟨seg', hlog', hnone', hfault'⟩ := g
  exact ⟨seg ++ seg', by rw [hlog', hlog, List.append_assoc], by simp [hnone, hnone'], hfault ∘ hfault'⟩

theorem NothingLost.respond {s t : State} (h : NothingLost s t) (r : Result) (o : Outputs) :
    NothingLost s (t.respond r o) := h.trans (nothingLost_respond t r o)

theorem NothingLost.record {s t : State} (h : NothingLost s t) {e : LogEntry} (he : ∀ off, e ≠ .noResp off) :
    NothingLost s (t.record e) :=
  h.trans ⟨[e], rfl, fun off hmem => he off (List.mem_singleton.mp hmem).symm, id⟩

theorem NothingLost.deselect {s t : State} (h : NothingLost s t) : NothingLost s t.deselect :=
  h.record (by simp)

theorem NothingLost.emitIfChanged {s t : State} (h : NothingLost s t) (start : State) :
    NothingLost s (start.emitIfChanged t) := by
  unfold State.emitIfChanged
  split
  · exact h
  · exact h.record (by simp)

theorem NothingLost.recordFrame {s t : State} (h : NothingLost s t) (f : Option Frame) :
    NothingLost s (t.recordFrame f) := by
  cases f with
  | none => exact h
  | some f => exact h.record (by simp)

theorem NothingLost.recordTxDone {s t : State} (h : NothingLost s t) (done : Option Bool) :
    NothingLost s (t.recordTxDone done) := by
  cases done with
  | none => exact h
  | some c => exact h.record (by simp)

theorem NothingLost.recordWakeUp {s t : State} (h : NothingLost s t) (ir : Byte) :
    NothingLost s (t.recordWakeUp ir) := by
  unfold State.recordWakeUp
  split
  · exact h.record (by simp)
  · exact h

/-- Where nothing was lost there is no exit to take. -/
theorem NothingLost.exits {s t : State} (h : NothingLost s t) : ExitsOnLoss s t := by
  obtain ⟨seg, hlog, hnone, hfault⟩ := h
  refine ⟨seg, hlog, fun ⟨off, hmem⟩ => absurd hmem (hnone off), fun hclear hset => ?_⟩
  exact absurd (hfault hset) (by simp [hclear])

/-- A result alone, a refusal for example, is no exit. -/
theorem respond_exits (s : State) (r : Result) (o : Outputs) : ExitsOnLoss s (s.respond r o) :=
  (nothingLost_respond s r o).exits

theorem noResp_not_mem_of_answered {accs : List LogEntry} (h : accs.all LogEntry.isAnswered = true) (off : Offset) :
    LogEntry.noResp off ∉ accs :=
  fun hmem => absurd (List.all_eq_true.mp h _ hmem) (by simp [LogEntry.isAnswered])

/-- The exception logs, after the lost access, the deselect and the status change of the whole operation. -/
theorem State.deviceNotResponding_log (start s : State) :
    (start.deviceNotResponding s).log =
      s.log ++ .desel :: statusChangeBetween start (start.deviceNotResponding s) := by
  rw [State.deviceNotResponding_eq]
  rfl

/-- An operation that selects the chip, makes its accesses and concludes: it ends by the exit where an access was lost,
and loses nothing if its own end does not. -/
theorem Access.Follows.conclude_exits {α : Type} {s : State} {P : LogEntry → Prop} {a : Access α}
    {finish : α → State → State} (h : a.Follows s.select P) (hfin : ∀ v u, NothingLost u (finish v u)) :
    ExitsOnLoss s (a.conclude s finish) := by
  cases a with
  | going v u =>
    obtain ⟨accs, hlog, hans, -, hport⟩ := h
    have made : NothingLost s u :=
      ⟨.sel :: accs, by simp [hlog], by simp [noResp_not_mem_of_answered hans], fun hu => hport.devFault ▸ hu⟩
    exact (made.trans (hfin v u)).exits
  | lost u =>
    obtain ⟨accs, off, hlog, hans, -, -, -⟩ := h
    rw [Access.conclude_lost]
    have haccess : accs.all LogEntry.isAccess = true :=
      List.all_eq_true.mpr fun e he => LogEntry.isAccess_of_isAnswered (List.all_eq_true.mp hans e he)
    refine ⟨.sel :: (accs ++ [.noResp off, .desel] ++ statusChangeBetween s (s.deviceNotResponding u)), ?_,
      fun _ => ⟨?_, rfl, accs, off, noResp_not_mem_of_answered hans, haccess, rfl⟩, fun _ _ => ⟨off, by simp⟩⟩
    · rw [State.deviceNotResponding_log, hlog]
      simp
    · rw [State.deviceNotResponding_eq]

/-! ### The exit, operation by operation -/

/-- The property every log entry has: what R16 says of the exit does not depend on the offsets. -/
abbrev AnyEntry : LogEntry → Prop := fun _ => True

theorem allowsRead_any (off : Offset) : AllowsRead AnyEntry off := ⟨fun _ => trivial, trivial⟩

theorem allowsWrite_any (off : Offset) (v : Byte) : AllowsWrite AnyEntry off v := ⟨trivial, trivial⟩

theorem transmitWith_exits (command : Byte) (f : Frame) (s : State) : ExitsOnLoss s (s.transmitWith command f) := by
  unfold State.transmitWith
  split
  · exact respond_exits s _ _
  · have hbuf : ∀ w ∈ bufferWrites f, AllowsWrite AnyEntry w.1 w.2 := fun w _ => allowsWrite_any w.1 w.2
    exact (transmitAccesses_follows hbuf (allowsWrite_any 1 command) s.select).conclude_exits fun _ u =>
      ((NothingLost.refl u).deselect.emitIfChanged s).respond _ _

/-- Every instruction either makes its accesses in one bracket and concludes (`conclude_exits`), or makes
none. -/
theorem exec_exits (i : Instr) (s : State) : ∃ t, exec i s = .next t ∧ ExitsOnLoss s t := by
  cases i with
  | transmit f => exact ⟨_, rfl, transmitWith_exits _ f s⟩
  | transmitSs f => exact ⟨_, rfl, transmitWith_exits _ f s⟩
  | abort =>
    refine ⟨_, rfl, ?_⟩
    split
    · exact respond_exits s _ _
    split
    · exact respond_exits s _ _
    exact ((allowsWrite_any 1 0x02).follows s.select).conclude_exits fun _ u =>
      (NothingLost.refl u).deselect.respond _ _
  | tryReceive =>
    refine ⟨_, rfl, ?_⟩
    split
    · exact respond_exits s _ _
    split
    · exact respond_exits s _ _
    exact (receiveAccesses_follows (allowsRead_any 2) (fun k _ => allowsRead_any _) (allowsRead_any 29)
      (allowsWrite_any 1 0x04) (allowsWrite_any 1 0x08) s.select).conclude_exits fun f u =>
        (((NothingLost.refl u).deselect.recordFrame f).emitIfChanged s).respond _ _
  | handleInterrupt =>
    refine ⟨_, rfl, ?_⟩
    split
    · exact respond_exits s _ _
    exact (interruptAccesses_follows (fun off _ => allowsRead_any off) s.select).conclude_exits fun r u =>
      ((((NothingLost.refl u).deselect.recordTxDone r.2).recordWakeUp r.1).emitIfChanged s).respond _ _
  | txReadback k =>
    refine ⟨_, rfl, ?_⟩
    split
    · exact respond_exits s _ _
    split
    · exact respond_exits s _ _
    exact ((allowsRead_any _).follows s.select).conclude_exits fun v u =>
      (NothingLost.refl u).deselect.respond _ _
  | setMode m =>
    refine ⟨_, rfl, ?_⟩
    split
    · exact respond_exits s _ _
    split
    · exact respond_exits s _ _
    have entered : NothingLost s (s.enterMode (modeOfByte m)) := nothingLost_of_same (by simp) (by simp)
    exact ((entered.emitIfChanged s).respond _ _).exits
  | ackEvents =>
    have cleared : NothingLost s ((s.setArbLost false).setBusError false) := nothingLost_of_same rfl id
    exact ⟨_, rfl, ((cleared.emitIfChanged s).respond _ _).exits⟩
  | reset => exact ⟨_, rfl, NothingLost.exits ⟨[.pulse], rfl, by simp, nofun⟩⟩
  | encode f =>
    refine ⟨_, rfl, NothingLost.exits ?_⟩
    split <;> exact nothingLost_respond s _ _
  | readStatus | decode | decodeEcc | decodeAlc | classify | bufSff | bufEff =>
    exact ⟨_, rfl, respond_exits s _ _⟩
  | cmrTr | cmrSrr | cmrTrAt | cmrSrrAt | cmrAt | cmrRrb | cmrCdo =>
    exact ⟨_, rfl, (nothingLost_of_same rfl id).exits⟩

/-- Settles O38, from what every instruction does with a lost access (`exec_exits`). -/
theorem noResponseTakesTheExit : Obligations.NoResponseTakesTheExit := by
  unfold Obligations.NoResponseTakesTheExit
  intro i s
  obtain ⟨t, hexec, seg, hlog, hexit, honly⟩ := exec_exits i s
  exact ⟨t, seg, hexec, hlog, hexit, honly⟩

/-! ### A step runs the decoded instruction (00_scope.md R8) -/

/-- A packet that decodes comes to its instruction. -/
theorem fetchedOf_of_decode {p : Packet} {i : Instr} (h : decode p = .ok i) (s : State) : fetchedOf p s = .run i s := by
  simp only [fetchedOf, h]

/-- An input that comes to an instruction is performed by running it. -/
theorem step_of_fetch_run {s t : State} {i : Instr} (h : fetch s = .run i t) : step s = exec i t := by
  simp only [step, h]

theorem fetch_command {s : State} {w : Byte} {l : OperandLines} {rest : List Input}
    (h : s.inputs = .command w l :: rest) : fetch s = fetchedOf (.command w l) (s.withInputs rest) := by
  simp only [fetch, h]

theorem fetch_image {s : State} {info : Byte} {bytes : Vector Byte 12} {rest : List Input}
    (h : s.inputs = .image info bytes :: rest) : fetch s = fetchedOf (.image info bytes) (s.withInputs rest) := by
  simp only [fetch, h]

/-- On its turn the controller takes the oldest byte out of its latch, where no reset pulse waits. -/
theorem fetch_controller_latch {s : State} {b : Byte} {bs : List Byte} {rest : List Input}
    (h : s.inputs = .controller :: rest) (hreset : s.controller.resetRequested = false)
    (hlatch : s.controller.latch = b :: bs) :
    fetch s = fetchedOf (.cmr b) ((s.withInputs rest).withController { s.controller with latch := bs }) := by
  simp [fetch, fetchLatch, h, hreset, hlatch]

/-- With nothing lined up the machine waits (70_reset_and_hazards.md R340). -/
theorem step_of_no_input {s : State} (h : s.inputs = []) : step s = .next s := by
  simp only [step, fetch, h]

/-- Settles O4: one equation of `fetch` per kind of input, and the decoded packet is run. -/
theorem stepRunsTheDecodedInstruction : Obligations.StepRunsTheDecodedInstruction := by
  unfold Obligations.StepRunsTheDecodedInstruction
  refine fun s i rest => ⟨fun w l hin hdec => ?_, fun info bytes hin hdec => ?_,
    fun b bs hin hreset hlatch hdec => ?_, step_of_no_input⟩
  · exact step_of_fetch_run ((fetch_command hin).trans (fetchedOf_of_decode hdec _))
  · exact step_of_fetch_run ((fetch_image hin).trans (fetchedOf_of_decode hdec _))
  · exact step_of_fetch_run ((fetch_controller_latch hin hreset hlatch).trans (fetchedOf_of_decode hdec _))

end Sys2Proof.Machine
end

section
/-! What an instruction can do to the state, said once: it is a sequence of `Move`s. Each move is one event, result,
access, flag, capture, classification or action of the controller, with the condition under which the instruction
makes it. A property that every move keeps is then a property of every instruction (10_state.md R24 to R31,
R38, R59). -/

namespace Sys2Proof.Machine

/-! ### Moves -/

/-- One move of an instruction that started in `start`. -/
inductive Move (start : State) : Instr → State → State → Prop
  | event {i : Instr} {s : State} (e : LogEntry) (h : e.isAccess = false) : Move start i s (s.record e)
  | respond {i : Instr} {s : State} (r : Result) (o : Outputs) : Move start i s (s.respond r o)
  | read {i : Instr} {s : State} (off : Offset) (v : Byte) (h : mayRead i off.toNat) :
      Move start i s (s.afterRead off v)
  | write {i : Instr} {s : State} (off : Offset) (v : Byte) (h : mayWrite i start off.toNat v) :
      Move start i s (s.afterWrite off v)
  | lose {i : Instr} {s : State} (off : Offset) (h : mayRead i off.toNat ∨ ∃ v, mayWrite i start off.toNat v) :
      Move start i s (s.noResponse off)
  | fault {i : Instr} {s : State} : Move start i s (s.withDevFault true)
  | request {i : Instr} {f : Frame} {s : State} (h : i = .transmit f ∨ i = .transmitSs f) :
      Move start i s (s.setTxBusy true)
  | countMessages {s : State} (b : Bool) : Move start .tryReceive s (s.setMsgWaiting b)
  | acknowledgeOverrun {s : State} : Move start .tryReceive s (s.setDataOverrun false)
  | overrun {s : State} : Move start .handleInterrupt s (s.setDataOverrun true)
  | busError {s : State} : Move start .handleInterrupt s (s.setBusError true)
  | captureEcc {s : State} (v : Byte) : Move start .handleInterrupt s (s.withEccCap (some v))
  | arbLost {s : State} : Move start .handleInterrupt s (s.setArbLost true)
  | captureAlc {s : State} (v : Byte) : Move start .handleInterrupt s (s.withAlcCap (some v))
  | classify {s : State} (cls : BusClass) : Move start .handleInterrupt s (s.applyClass cls)
  | receive {s : State} : Move start .handleInterrupt s (s.setMsgWaiting true)
  | transmitOver {s : State} : Move start .handleInterrupt s (s.setTxBusy false)
  | enterMode {s : State} (m : Byte) : Move start (.setMode m) s (s.enterMode (modeOfByte m))
  | ackEvents {s : State} : Move start .ackEvents s ((s.setArbLost false).setBusError false)
  | reset {s : State} : Move start .reset s s.resetPulse.resetFields
  | act {i : Instr} {s : State} (c : Controller) (h : s.controller.regs.wf = true → c.regs.wf = true) :
      Move start i s (s.withController c)

/-- A sequence of moves. -/
abbrev Moves (start : State) (i : Instr) : State → State → Prop := Relation.ReflTransGen (Move start i)

/-- A reflexive and transitive relation that every move keeps holds over a sequence of moves. -/
theorem Moves.lift {start : State} {i : Instr} {R : State → State → Prop} (hrefl : ∀ s, R s s)
    (htrans : ∀ s t u, R s t → R t u → R s u) (hmove : ∀ s t, Move start i s t → R s t) {s t : State}
    (h : Moves start i s t) : R s t := by
  induction h with
  | refl => exact hrefl s
  | tail _ hlast ih => exact htrans _ _ _ ih (hmove _ _ hlast)

theorem Moves.refl {start : State} {i : Instr} (s : State) : Moves start i s s := Relation.ReflTransGen.refl

section
variable {start s t : State} {i : Instr}

theorem Moves.event (h : Moves start i s t) {e : LogEntry} (he : e.isAccess = false) : Moves start i s (t.record e) :=
  h.tail (.event e he)

theorem Moves.respond (h : Moves start i s t) (r : Result) (o : Outputs) : Moves start i s (t.respond r o) :=
  h.tail (.respond r o)

theorem Moves.deselect (h : Moves start i s t) : Moves start i s t.deselect := h.event rfl

theorem Moves.emitIfChanged (h : Moves start i s t) (before : State) : Moves start i s (before.emitIfChanged t) := by
  unfold State.emitIfChanged
  split
  · exact h
  · exact h.event rfl

theorem Moves.recordFrame (h : Moves start i s t) (f : Option Frame) : Moves start i s (t.recordFrame f) := by
  cases f with
  | none => exact h
  | some f => exact h.event rfl

theorem Moves.recordTxDone (h : Moves start i s t) (done : Option Bool) : Moves start i s (t.recordTxDone done) := by
  cases done with
  | none => exact h
  | some c => exact h.event rfl

theorem Moves.recordWakeUp (h : Moves start i s t) (ir : Byte) : Moves start i s (t.recordWakeUp ir) := by
  unfold State.recordWakeUp
  split
  · exact h.event rfl
  · exact h

end

/-! ### The accesses of an operation are moves -/

/-- The state a sequence of accesses ends in, answered or not. -/
def Access.last {α : Type} : Access α → State
  | .going _ s => s
  | .lost s => s

section
variable {start : State} {i : Instr}

theorem regRead_moves {off : Offset} (h : mayRead i off.toNat) (s : State) : Moves start i s (regRead off s).last := by
  obtain ⟨v, -, e⟩ | ⟨-, e⟩ := regRead_cases off s
  · rw [e]; exact .single (.read off v h)
  · rw [e]; exact .single (.lose off (.inl h))

theorem regWrite_moves {off : Offset} {v : Byte} (h : mayWrite i start off.toNat v) (s : State) :
    Moves start i s (regWrite off v s).last := by
  obtain ⟨-, e⟩ | ⟨-, e⟩ := regWrite_cases off v s
  · rw [e]; exact .single (.write off v h)
  · rw [e]; exact .single (.lose off (.inr ⟨v, h⟩))

/-- One sequence of accesses after another. -/
theorem moves_andThen {α β : Type} {s : State} {a : Access α} {k : α → State → Access β}
    (h : Moves start i s a.last) (hk : ∀ v u, Moves start i u (k v u).last) : Moves start i s (a.andThen k).last := by
  cases a with
  | going v u => exact h.trans (hk v u)
  | lost u => exact h

theorem regReadAll_moves (offs : List Offset) (h : ∀ off ∈ offs, mayRead i off.toNat) (s : State) :
    Moves start i s (regReadAll offs s).last := by
  induction offs generalizing s with
  | nil => exact .refl _
  | cons off offs ih =>
    refine moves_andThen (regRead_moves (h off (by simp)) s) fun v t => ?_
    exact moves_andThen (ih (fun o ho => h o (by simp [ho])) t) fun vs u => .refl _

theorem regWriteAll_moves (ws : List (Offset × Byte)) (h : ∀ w ∈ ws, mayWrite i start w.1.toNat w.2) (s : State) :
    Moves start i s (regWriteAll ws s).last := by
  induction ws generalizing s with
  | nil => exact .refl _
  | cons w ws ih =>
    exact moves_andThen (regWrite_moves (h w (by simp)) s) fun _ t => ih (fun o ho => h o (by simp [ho])) t

/-- An operation in one chip-select bracket, which ends by itself or by the exception (00_scope.md R16). -/
theorem moves_conclude {α : Type} {s : State} {a : Access α} {finish : α → State → State}
    (h : Moves start i s.select a.last) (hfin : ∀ v u, Moves start i u (finish v u)) :
    Moves start i s (a.conclude s finish) := by
  have hsel : Moves start i s a.last := .head (.event .sel rfl) h
  cases a with
  | going v u => exact hsel.trans (hfin v u)
  | lost u =>
    have hfault : Moves start i s (u.withDevFault true) := hsel.tail .fault
    exact (hfault.deselect.emitIfChanged s).respond _ _

end

/-! ### The accesses of each operation -/

theorem mem_indexFrom {n k : Nat} {b : Byte} {bs : List Byte} (h : (k, b) ∈ indexFrom n bs) :
    n ≤ k ∧ k < n + bs.length := by
  induction bs generalizing n with
  | nil => simp [indexFrom] at h
  | cons c bs ih =>
    simp only [indexFrom, List.mem_cons, Prod.mk.injEq] at h
    obtain ⟨rfl, -⟩ | h := h
    · simp
    · have := ih h
      simp only [List.length_cons]
      omega

/-- A well-formed frame fits the buffer: its indices are 0 to 12 (40_frame_codec.md R143). -/
theorem txImage_index_le {f : Frame} (hwf : frameWf f = true) {k : Nat} {b : Byte} (h : (k, b) ∈ txImage f) :
    k ≤ 12 := by
  have hdlc : f.dlc.toNat ≤ 8 := by
    simp only [frameWf, wfDlc, Bool.and_eq_true, decide_eq_true_eq] at hwf
    obtain ⟨⟨⟨-, hdlc⟩, -⟩, -⟩ := hwf
    exact hdlc
  have hid : (idBytes f).length ≤ 4 := by
    unfold idBytes
    cases f.fmt <;> simp
  have hdata : (txData f).length ≤ 8 := by
    unfold txData
    split
    · simp
    · simp only [List.length_take]; omega
  have hk := (mem_indexFrom h).2
  simp only [List.length_cons, List.length_append] at hk
  omega

/-- TRANSMIT and TRANSMIT_SS: a refusal, or the buffer writes, the busy flag and the command byte. -/
theorem transmitWith_moves {s : State} {i : Instr} {command : Byte} {f : Frame}
    (hi : i = .transmit f ∨ i = .transmitSs f) (hbuf : ∀ k ≤ 12, ∀ b, mayWrite i s (16 + k) b)
    (hcmr : mayWrite i s 1 command) : Moves s i s (s.transmitWith command f) := by
  unfold State.transmitWith
  split
  · exact .single (.respond _ _)
  · rename_i hcheck
    have hwf : frameWf f = true := by
      by_contra hwf
      simp only [State.txCheck, hwf] at hcheck
      split at hcheck <;> simp at hcheck
    have hwrites : ∀ w ∈ bufferWrites f, mayWrite i s w.1.toNat w.2 := by
      refine List.forall_mem_map.mpr fun p hp => ?_
      have hk := txImage_index_le hwf hp
      exact (bufferOffset_toNat hk).symm ▸ hbuf p.1 hk p.2
    refine moves_conclude (moves_andThen (regWriteAll_moves _ hwrites _) fun _ u => ?_) fun _ u =>
      (((Moves.refl u).deselect).emitIfChanged s).respond _ _
    exact .head (.request hi) (regWrite_moves hcmr _)

/-- TRY_RECEIVE: SR, then the drain where a message waits (42_receive.md R202 to R207). -/
theorem receiveAccesses_moves (start s : State) : Moves start .tryReceive s (receiveAccesses s).last := by
  have hread {off : Offset} (h : off.toNat = 2 ∨ (16 ≤ off.toNat ∧ off.toNat ≤ 28) ∨ off.toNat = 29) :
      mayRead .tryReceive off.toNat := .inl ⟨rfl, h⟩
  have hwrite {v : Byte} (h : v = 0x04 ∨ v = 0x08) : mayWrite .tryReceive start (1 : Offset).toNat v :=
    .inr (.inr (.inr ⟨rfl, rfl, h⟩))
  have hbuf {k : Nat} (hk : k ≤ 12) : mayRead .tryReceive (bufferOffset k).toNat :=
    hread (.inr (.inl (by rw [bufferOffset_toNat hk]; omega)))
  have hframe (t : State) : Moves start .tryReceive t (readFrame t).last := by
    refine moves_andThen (regRead_moves (hbuf (Nat.zero_le _)) t) fun info u => ?_
    have hrest : ∀ off ∈ (restIndices info).map bufferOffset, mayRead .tryReceive off.toNat :=
      List.forall_mem_map.mpr fun k hk => hbuf (restIndices_le info k hk).2
    exact moves_andThen (regReadAll_moves _ hrest u) fun _ _ => .refl _
  have hack (t : State) : Moves start .tryReceive t (acknowledgeOverrun t).last := by
    unfold acknowledgeOverrun
    split
    · exact moves_andThen (regWrite_moves (hwrite (.inr rfl)) t) fun _ u => .single .acknowledgeOverrun
    · exact .refl _
  refine moves_andThen (regRead_moves (hread (.inl rfl)) s) fun sr t => ?_
  split
  · refine moves_andThen (hframe t) fun f u => moves_andThen (regRead_moves (hread (.inr (.inr rfl))) u) fun rmc v =>
      moves_andThen (regWrite_moves (hwrite (.inl rfl)) v) fun _ w => ?_
    exact moves_andThen (.head (.countMessages _) (hack _)) fun _ x => .refl _
  · exact .single (.countMessages false)

section
variable (start : State) (ir : Byte) (s : State)

theorem interruptRead_moves {off : Offset} (h : off.toNat = 2 ∨ off.toNat = 3 ∨ off.toNat = 11 ∨ off.toNat = 12 ∨
    off.toNat = 13 ∨ off.toNat = 14 ∨ off.toNat = 15) : Moves start .handleInterrupt s (regRead off s).last :=
  regRead_moves (.inr (.inl ⟨rfl, h⟩)) s

theorem onOverrun_moves : Moves start .handleInterrupt s (onOverrun ir s) := by
  unfold onOverrun
  split
  · exact .single .overrun
  · exact .refl s

theorem onBusError_moves : Moves start .handleInterrupt s (onBusError ir s).last := by
  unfold onBusError
  split
  · exact moves_andThen (.head .busError (interruptRead_moves start _ (by decide))) fun v t => .single (.captureEcc v)
  · exact .refl s

theorem onArbLost_moves : Moves start .handleInterrupt s (onArbLost ir s).last := by
  unfold onArbLost
  split
  · exact moves_andThen (.head .arbLost (interruptRead_moves start _ (by decide))) fun v t => .single (.captureAlc v)
  · exact .refl s

theorem onErrorState_moves : Moves start .handleInterrupt s (onErrorState ir s).last := by
  unfold onErrorState
  split
  · exact moves_andThen (interruptRead_moves start s (by decide)) fun sr t =>
      moves_andThen (interruptRead_moves start t (by decide)) fun ewlr u =>
        moves_andThen (interruptRead_moves start u (by decide)) fun rxerr v =>
          moves_andThen (interruptRead_moves start v (by decide)) fun txerr w => .single (.classify _)
  · exact .refl s

theorem onReceive_moves : Moves start .handleInterrupt s (onReceive ir s) := by
  unfold onReceive
  split
  · exact .single .receive
  · exact .refl s

theorem onTransmit_moves : Moves start .handleInterrupt s (onTransmit ir s).last := by
  unfold onTransmit
  split
  · exact moves_andThen (interruptRead_moves start s (by decide)) fun sr t => .single .transmitOver
  · exact .refl s

/-- HANDLE_INTERRUPT: IR, then the branches of its snapshot (43_status_decoder.md R246 to R254). -/
theorem interruptAccesses_moves : Moves start .handleInterrupt s (interruptAccesses s).last := by
  have hbranches (ir : Byte) (t : State) : Moves start .handleInterrupt t (dispatchSnapshot ir t).last :=
    moves_andThen ((onOverrun_moves start ir t).trans (onBusError_moves start ir _)) fun _ u =>
      moves_andThen (onArbLost_moves start ir u) fun _ v =>
        moves_andThen (onErrorState_moves start ir v) fun _ w =>
          (onReceive_moves start ir w).trans (onTransmit_moves start ir _)
  exact moves_andThen (interruptRead_moves start s (by decide)) fun ir t =>
    moves_andThen (hbranches ir t) fun _ u => .refl u

end

/-! ### Every instruction is a sequence of moves -/

/-- What an instruction does, whatever the answers. -/
theorem exec_moves (i : Instr) (s : State) : ∃ t, exec i s = .next t ∧ Moves s i s t := by
  have hrefuse {i : Instr} (r : Result) (o : Outputs) : Moves s i s (s.respond r o) := .single (.respond r o)
  have hact {i : Instr} {c : Controller} (h : s.controller.regs.wf = true → c.regs.wf = true) :
      Moves s i s (s.withController c) := .single (.act c h)
  cases i with
  | transmit f =>
    exact ⟨_, rfl, transmitWith_moves (.inl rfl) (fun k hk b => .inl ⟨⟨f, rfl⟩, .inl (by omega)⟩)
      (.inl ⟨⟨f, rfl⟩, .inr ⟨rfl, rfl⟩⟩)⟩
  | transmitSs f =>
    exact ⟨_, rfl, transmitWith_moves (.inr rfl) (fun k hk b => .inr (.inl ⟨⟨f, rfl⟩, .inl (by omega)⟩))
      (.inr (.inl ⟨⟨f, rfl⟩, .inr ⟨rfl, rfl⟩⟩))⟩
  | abort =>
    refine ⟨_, rfl, ?_⟩
    split
    · exact hrefuse _ _
    split
    · exact hrefuse _ _
    exact moves_conclude (regWrite_moves (.inr (.inr (.inl ⟨rfl, rfl, rfl⟩))) _) fun _ u =>
      ((Moves.refl u).deselect).respond _ _
  | tryReceive =>
    refine ⟨_, rfl, ?_⟩
    split
    · exact hrefuse _ _
    split
    · exact hrefuse _ _
    exact moves_conclude (receiveAccesses_moves s s.select) fun f u =>
      (((Moves.refl u).deselect.recordFrame f).emitIfChanged s).respond _ _
  | handleInterrupt =>
    refine ⟨_, rfl, ?_⟩
    split
    · exact hrefuse _ _
    exact moves_conclude (interruptAccesses_moves s s.select) fun r u =>
      ((((Moves.refl u).deselect.recordTxDone r.2).recordWakeUp r.1).emitIfChanged s).respond _ _
  | txReadback k =>
    refine ⟨_, rfl, ?_⟩
    split
    · exact hrefuse _ _
    split
    · exact hrefuse _ _
    rename_i hk
    simp only [indexLegal, decide_eq_true_eq, not_not] at hk
    refine moves_conclude (regRead_moves (.inr (.inr ⟨⟨k, rfl⟩, ?_⟩)) _) fun _ u =>
      ((Moves.refl u).deselect).respond _ _
    rw [BitVec.toNat_ofNat]
    omega
  | setMode m =>
    refine ⟨_, rfl, ?_⟩
    split
    · exact hrefuse _ _
    split
    · exact hrefuse _ _
    have hentered : Moves s (.setMode m) s (s.enterMode (modeOfByte m)) := .single (.enterMode m)
    exact (hentered.emitIfChanged s).respond _ _
  | ackEvents =>
    have hcleared : Moves s .ackEvents s ((s.setArbLost false).setBusError false) := .single .ackEvents
    exact ⟨_, rfl, (hcleared.emitIfChanged s).respond _ _⟩
  | reset =>
    have hreset : Moves s .reset s s.resetPulse.resetFields := .single .reset
    exact ⟨_, rfl, hreset.respond _ _⟩
  | encode f =>
    refine ⟨_, rfl, ?_⟩
    split <;> exact hrefuse _ _
  | readStatus | decode | decodeEcc | decodeAlc | classify | bufSff | bufEff => exact ⟨_, rfl, hrefuse _ _⟩
  | cmrTr | cmrSrr | cmrTrAt | cmrSrrAt | cmrAt => exact ⟨_, rfl, hact id⟩
  | cmrRrb => exact ⟨_, rfl, hact fun h => Controller.releaseReceiveBuffer_wf h _⟩
  | cmrCdo => exact ⟨_, rfl, hact fun h => Controller.setCell_wf h (by decide) _⟩

/-- What an instruction did, from the state it answered. -/
theorem moves_of_exec {i : Instr} {s t : State} (h : exec i s = .next t) : Moves s i s t := by
  obtain ⟨u, hu, hm⟩ := exec_moves i s
  rw [h] at hu
  injection hu with hu
  exact hu ▸ hm

end Sys2Proof.Machine
end

section
/-! What one step can do: take the oldest input, and run the instruction it comes to (00_scope.md R8; 10_state.md R31).
Taking an input changes the list of inputs and the controller alone. -/

namespace Sys2Proof.Machine

/-- From `s` to `u` an input was taken: every other field but the controller is as before, and the cells of the
controller are still in canonical form. -/
structure InputTaken (s u : State) : Prop where
  eq : u = { s with inputs := u.inputs, controller := u.controller }
  canonical : s.memoryCanonical → u.memoryCanonical

section
variable {s u : State} (h : InputTaken s u)
include h

theorem InputTaken.status : u.status = s.status := by rw [h.eq]
theorem InputTaken.busClass : u.busClass = s.busClass := by rw [h.eq]
theorem InputTaken.mode : u.mode = s.mode := by rw [h.eq]
theorem InputTaken.devFault : u.devFault = s.devFault := by rw [h.eq]
theorem InputTaken.log : u.log = s.log := by rw [h.eq]
theorem InputTaken.params : u.params = s.params := by rw [h.eq]
theorem InputTaken.answers : u.answers = s.answers := by rw [h.eq]
theorem InputTaken.accesses : u.accesses = s.accesses := by rw [h.eq]

end

theorem InputTaken.refl (s : State) : InputTaken s s := ⟨rfl, id⟩

theorem inputTaken_of_withInputs (s : State) (rest : List Input) : InputTaken s (s.withInputs rest) := ⟨rfl, id⟩

theorem inputTaken_of_controller (s : State) (rest : List Input) {c : Controller}
    (h : s.controller.regs.wf = true → c.regs.wf = true) : InputTaken s ((s.withInputs rest).withController c) :=
  ⟨rfl, h⟩

/-- The one word that decodes to RESET (30_encoding.md R92). -/
theorem decode_eq_reset {p : Packet} (h : decode p = .ok .reset) : ∃ l, p = .command 0x09 l := by
  cases p with
  | command w l =>
    simp only [decode, decodeCommand] at h
    split at h
    · cases h
    rename_i hrsv
    have hop : commandOf (w.extractLsb' 0 4) l = some .reset := by
      split at h
      · rename_i i hi
        injection h with h
        exact h ▸ hi
      · cases h
    have hnine : (w.extractLsb' 0 4).toNat = 9 := by
      unfold commandOf at hop
      split at hop <;> cases hop
      assumption
    refine ⟨l, congrArg (Packet.command · l) (BitVec.eq_of_toNat_eq ?_)⟩
    have hzero := congrArg BitVec.toNat (not_not.mp hrsv)
    simp only [BitVec.extractLsb'_toNat, Nat.shiftRight_eq_div_pow] at hzero hnine
    simp only [BitVec.reduceToNat] at hzero ⊢
    omega
  | cmr b =>
    simp only [decode, decodeCmr] at h
    split at h <;> cases h
  | image info rest =>
    simp only [decode, decodeFrameInfo] at h
    split at h <;> cases h

/-- What an input taken in `s` can come to: an instruction, a refused word or nothing, each in a state that only took
the input; and RESET comes from its command word alone. -/
def Fetched.From (s : State) : Fetched → Prop
  | .idle => True
  | .run i u => InputTaken s u ∧ (i = .reset → ∃ l rest, s.inputs = .command 0x09 l :: rest)
  | .illegal u => InputTaken s u
  | .quiet u => InputTaken s u
  | .reserved _ => True

theorem fetchedOf_from {s u : State} {p : Packet} (h : InputTaken s u)
    (hreset : ∀ l, p = .command 0x09 l → ∃ rest, s.inputs = .command 0x09 l :: rest) : (fetchedOf p u).From s := by
  unfold fetchedOf
  split
  · rename_i i hdec
    refine ⟨h, fun hi => ?_⟩
    obtain ⟨l, hp⟩ := decode_eq_reset (hi ▸ hdec)
    exact ⟨l, hreset l hp⟩
  · exact h
  · trivial

theorem fetch_from (s : State) : (fetch s).From s := by
  unfold fetch
  split
  · trivial
  · rename_i word lines rest hin
    refine fetchedOf_from (inputTaken_of_withInputs s rest) fun l hp => ⟨rest, ?_⟩
    rw [hin]
    injection hp with hw hl
    rw [hw, hl]
  · exact fetchedOf_from (inputTaken_of_withInputs s _) nofun
  · rename_i rest hin
    unfold fetchLatch
    split
    · exact inputTaken_of_controller s rest fun _ => rfl
    · split
      · exact inputTaken_of_withInputs s rest
      · exact fetchedOf_from (inputTaken_of_controller s rest id) nofun
  · rename_i rest hin
    unfold fetchPlatform
    split
    · exact ⟨inputTaken_of_withInputs s rest, nofun⟩
    · exact inputTaken_of_withInputs s rest
  · exact inputTaken_of_controller s _ fun h => Controller.onEvent_wf h _ _ _

/-- What a step can do: an input is taken, and then nothing more, a refusal, or an instruction. -/
theorem step_cases {s t : State} (h : step s = .next t) : ∃ u, InputTaken s u ∧
    (t = u ∨ t = u.respond .illegalCommand .none ∨
      ∃ i, exec i u = .next t ∧ (i = .reset → ∃ l rest, s.inputs = .command 0x09 l :: rest)) := by
  have hfrom := fetch_from s
  unfold step at h
  split at h
  · injection h with h
    exact ⟨s, .refl s, .inl h.symm⟩
  · rename_i i u hf
    rw [hf] at hfrom
    exact ⟨u, hfrom.1, .inr (.inr ⟨i, h, hfrom.2⟩)⟩
  · rename_i u hf
    rw [hf] at hfrom
    injection h with h
    exact ⟨u, hfrom, .inr (.inl h.symm)⟩
  · rename_i u hf
    rw [hf] at hfrom
    injection h with h
    exact ⟨u, hfrom, .inl h.symm⟩
  · cases h

/-- A reflexive and transitive relation that taking an input and every move keep holds over every step. -/
theorem step_lift {R : State → State → Prop} (hrefl : ∀ s, R s s) (htrans : ∀ s t u, R s t → R t u → R s u)
    (htake : ∀ s u, InputTaken s u → R s u) (hmove : ∀ start i s t, Move start i s t → R s t) {s t : State}
    (h : step s = .next t) : R s t := by
  obtain ⟨u, hu, rfl | rfl | ⟨i, hi, -⟩⟩ := step_cases h
  · exact htake s _ hu
  · exact htrans _ _ _ (htake s u hu) (hmove u .readStatus _ _ (.respond _ _))
  · exact htrans _ _ _ (htake s u hu) ((moves_of_exec hi).lift hrefl htrans (hmove u i))

/-- A property that taking an input and every move keep is kept by every step. -/
theorem step_keeps {P : State → Prop} (htake : ∀ s u, InputTaken s u → P s → P u)
    (hmove : ∀ start i s t, Move start i s t → P s → P t) {s t : State} (h : step s = .next t) : P s → P t :=
  step_lift (R := fun s t => P s → P t) (fun _ => id) (fun _ _ _ f g => g ∘ f) htake hmove h

end Sys2Proof.Machine
end

section
/-! The invariants of 10_state.md: the bus-health flags follow the class (R25), the register cells stay in canonical
form (R40), the log only grows (R38). Each is shown of one move, then of every step. -/

namespace Sys2Proof.Machine

/-! ### Bus health (10_state.md R25) -/

/-- (I-a) to (I-c) depend on the flags, the class and the mode alone. -/
theorem healthConsistent_congr {s t : State} (hs : t.status = s.status) (hc : t.busClass = s.busClass)
    (hm : t.mode = s.mode) (h : s.healthConsistent) : t.healthConsistent := by
  unfold State.healthConsistent
  rw [hs, hc, hm]
  exact h

/-- A classification sets the two flags with the class, and bus-off takes the CFC off the bus (43_status_decoder.md
R242). -/
theorem applyClass_keeps_health {s : State} (h : s.healthConsistent) (cls : BusClass) :
    (s.applyClass cls).healthConsistent := by
  unfold State.applyClass
  split
  · simp [State.healthConsistent]
  · rename_i hcls
    split
    · exact h
    · simp [State.healthConsistent, hcls]

/-- Entering operating mode initialises, turns the bus on and recovers from bus-off (44_block_control.md R280). -/
theorem State.enterMode_operating {m : ModeView} (h : m.op = .operating) (s : State) :
    s.enterMode m = { s with
      mode := m, status := { s.status with txBusy := false, initialized := true, busOn := true },
      busClass := if s.busClass = .busOff then .active else s.busClass } := by
  unfold State.enterMode
  rw [h]
  by_cases hc : s.busClass = .busOff <;> simp [hc, State.withStatus, State.withMode, State.withClass]

/-- Entering reset mode turns the bus off (44_block_control.md R280). -/
theorem State.enterMode_reset {m : ModeView} (h : m.op = .reset) (s : State) :
    s.enterMode m = { s with mode := m, status := { s.status with txBusy := false, busOn := false } } := by
  unfold State.enterMode
  rw [h]
  rfl

/-- Leaving BUS_OFF for ACTIVE finds both flags at 0 (44_block_control.md R281). -/
theorem enterMode_keeps_health {s : State} (h : s.healthConsistent) (m : ModeView) :
    (s.enterMode m).healthConsistent := by
  obtain ⟨hwarning, hpassive, -⟩ := h
  cases hop : m.op with
  | operating =>
    rw [State.enterMode_operating hop]
    by_cases hc : s.busClass = .busOff <;> simp [State.healthConsistent, hwarning, hpassive, hc]
  | reset =>
    rw [State.enterMode_reset hop]
    simp [State.healthConsistent, hwarning, hpassive, hop]

theorem Move.keeps_health {start s t : State} {i : Instr} (hm : Move start i s t) (h : s.healthConsistent) :
    t.healthConsistent := by
  cases hm with
  | classify cls => exact applyClass_keeps_health h cls
  | enterMode m => exact enterMode_keeps_health h _
  | reset => simp [State.healthConsistent, State.resetFields, ControllerStatus.reset, ModeView.reset]
  | _ => exact h

/-- Settles O50: every move keeps the three invariants, and taking an input touches none of their fields. -/
theorem stepKeepsHealthConsistent : Obligations.StepKeepsHealthConsistent := by
  unfold Obligations.StepKeepsHealthConsistent
  intro s t h hstep
  exact step_keeps (fun s u hu => healthConsistent_congr hu.status hu.busClass hu.mode)
    (fun _ _ _ _ hm => hm.keeps_health) hstep h

/-! ### Canonical cells (10_state.md R40; 20_memory.md R60) -/

@[simp] theorem State.applyClass_controller (s : State) (cls : BusClass) :
    (s.applyClass cls).controller = s.controller := by
  unfold State.applyClass
  repeat' split
  all_goals rfl

@[simp] theorem State.enterMode_controller (s : State) (m : ModeView) : (s.enterMode m).controller = s.controller := by
  cases hop : m.op with
  | operating => rw [State.enterMode_operating hop]
  | reset => rw [State.enterMode_reset hop]

theorem Move.keeps_canonical {start s t : State} {i : Instr} (hm : Move start i s t) (h : s.memoryCanonical) :
    t.memoryCanonical := by
  cases hm with
  | read off v => exact Controller.afterRead_wf h off v
  | write off v => exact Controller.afterWrite_wf h _ off v
  | act c hc => exact hc h
  | classify cls => simpa [State.memoryCanonical] using h
  | enterMode m => simpa [State.memoryCanonical] using h
  | _ => exact h

/-- Settles O51: accesses, command bytes and events at the controller all keep the canonical form, and nothing else
touches the cells. -/
theorem stepKeepsMemoryCanonical : Obligations.StepKeepsMemoryCanonical := by
  unfold Obligations.StepKeepsMemoryCanonical
  intro s t h hstep
  exact step_keeps (fun _ _ hu => hu.canonical) (fun _ _ _ _ hm => hm.keeps_canonical) hstep h

/-! ### The log only grows (10_state.md R38), by the accesses of the matrix (R59) -/

/-- From `s` to `t` the log was at most appended to, by entries with the property `P`; the parameters and the fixed
answers are as before, and the access counter has not gone down. -/
structure HistoryKept (P : LogEntry → Prop) (s t : State) : Prop where
  log : ∃ seg, t.log = s.log ++ seg ∧ ∀ e ∈ seg, P e
  params : t.params = s.params
  answers : t.answers = s.answers
  accesses : s.accesses ≤ t.accesses

section
variable {P : LogEntry → Prop} {s t u : State}

theorem HistoryKept.trans (h : HistoryKept P s t) (g : HistoryKept P t u) : HistoryKept P s u := by
  obtain ⟨seg, hlog, hall⟩ := h.log
  obtain ⟨seg', hlog', hall'⟩ := g.log
  exact ⟨⟨seg ++ seg', by rw [hlog', hlog, List.append_assoc],
      fun e he => (List.mem_append.mp he).elim (hall e) (hall' e)⟩,
    g.params.trans h.params, g.answers.trans h.answers, h.accesses.trans g.accesses⟩

/-- Nothing logged. -/
theorem SamePort.historyKept (h : SamePort s t) (hlog : t.log = s.log) : HistoryKept P s t :=
  ⟨⟨[], by simp [hlog], by simp⟩, h.params, h.answers, h.accesses⟩

theorem HistoryKept.refl (s : State) : HistoryKept P s s := (SamePort.refl s).historyKept rfl

/-- One entry logged. -/
theorem historyKept_of_entry {e : LogEntry} (hlog : t.log = s.log ++ [e]) (hp : t.params = s.params)
    (ha : t.answers = s.answers) (hn : s.accesses ≤ t.accesses) (he : P e) : HistoryKept P s t :=
  ⟨⟨[e], hlog, by simpa using he⟩, hp, ha, hn⟩

end

/-- The entries an instruction that started in `start` may log: accesses the matrix gives it, and events. -/
def MayLog (start : State) (i : Instr) : LogEntry → Prop
  | .rd off _ => mayRead i off.toNat
  | .wr off v => mayWrite i start off.toNat v
  | .noResp off => mayRead i off.toNat ∨ ∃ v, mayWrite i start off.toNat v
  | .sel | .desel | .pulse | .statusChange _ _ | .frameReceived _ | .txDone _ | .wakeUp => True

theorem mayLog_of_not_access (start : State) (i : Instr) {e : LogEntry} (h : e.isAccess = false) :
    MayLog start i e := by
  cases e with
  | rd | wr | noResp => cases h
  | sel | desel | pulse | statusChange | frameReceived | txDone | wakeUp => trivial

theorem samePort_enterMode (s : State) (m : ModeView) : SamePort s (s.enterMode m) := by
  cases hop : m.op with
  | operating => rw [State.enterMode_operating hop]; exact ⟨rfl, rfl, rfl, rfl, rfl, le_refl _⟩
  | reset => rw [State.enterMode_reset hop]; exact ⟨rfl, rfl, rfl, rfl, rfl, le_refl _⟩

theorem Move.historyKept {start s t : State} {i : Instr} (hm : Move start i s t) :
    HistoryKept (MayLog start i) s t := by
  cases hm with
  | event e he => exact historyKept_of_entry rfl rfl rfl le_rfl (mayLog_of_not_access start i he)
  | read off v hr => exact historyKept_of_entry rfl rfl rfl (Nat.le_succ _) hr
  | write off v hw => exact historyKept_of_entry rfl rfl rfl (Nat.le_succ _) hw
  | lose off hl => exact historyKept_of_entry rfl rfl rfl (Nat.le_succ _) hl
  | reset => exact historyKept_of_entry (e := .pulse) rfl rfl rfl le_rfl trivial
  | classify cls => exact (samePort_applyClass s cls).historyKept (State.applyClass_log s cls)
  | enterMode m => exact (samePort_enterMode s _).historyKept (State.enterMode_log s _)
  | _ => exact ⟨⟨[], (List.append_nil _).symm, by simp⟩, rfl, rfl, le_rfl⟩

theorem HistoryKept.weaken {P Q : LogEntry → Prop} {s t : State} (h : HistoryKept P s t) (hPQ : ∀ e, P e → Q e) :
    HistoryKept Q s t := by
  obtain ⟨seg, hlog, hall⟩ := h.log
  exact ⟨⟨seg, hlog, fun e he => hPQ e (hall e he)⟩, h.params, h.answers, h.accesses⟩

/-- Settles O60: every move at most appends to the log, and taking an input leaves it alone. -/
theorem logOnlyGrows : Obligations.LogOnlyGrows := by
  unfold Obligations.LogOnlyGrows
  intro s t hstep
  have hkept : HistoryKept AnyEntry s t := step_lift HistoryKept.refl (fun _ _ _ h g => h.trans g)
    (fun s u hu => ⟨⟨[], by simp [hu.log], by simp⟩, hu.params, hu.answers, hu.accesses.ge⟩)
    (fun _ _ _ _ hm => hm.historyKept.weaken fun _ _ => trivial) hstep
  obtain ⟨⟨seg, hlog, -⟩, hparams, hanswers, haccesses⟩ := hkept
  exact ⟨⟨seg, hlog.symm⟩, hparams, hanswers, haccesses⟩

/-- Settles O55: every entry that a move logs is one the matrix gives its instruction. -/
theorem accessMatrix : Obligations.AccessMatrix := by
  unfold Obligations.AccessMatrix
  intro i s
  obtain ⟨t, hexec, hmoves⟩ := exec_moves i s
  obtain ⟨seg, hlog, hall⟩ :=
    (hmoves.lift (R := HistoryKept (MayLog s i)) .refl (fun _ _ _ h g => h.trans g) fun _ _ hm => hm.historyKept).log
  exact ⟨t, seg, hexec, hlog, fun off v h => hall _ h, fun off v h => hall _ h, fun off h => hall _ h⟩

/-! ### The sticky fault (10_state.md R30) -/

@[simp] theorem State.applyClass_devFault (s : State) (cls : BusClass) : (s.applyClass cls).devFault = s.devFault :=
  (samePort_applyClass s cls).devFault

/-- Only the move of RESET clears the fault. -/
theorem Move.keeps_fault {start s t : State} {i : Instr} (hm : Move start i s t) (hi : i ≠ .reset)
    (h : s.devFault = true) : t.devFault = true := by
  cases hm with
  | fault => rfl
  | reset => exact absurd rfl hi
  | classify cls => simpa using h
  | enterMode m => simpa using h
  | _ => exact h

/-- Settles O37: an instruction that clears the fault is RESET, and RESET comes from its command word alone. -/
theorem onlyResetClearsTheFault : Obligations.OnlyResetClearsTheFault := by
  unfold Obligations.OnlyResetClearsTheFault
  intro s t hstep hset hclear
  obtain ⟨u, hu, rfl | rfl | ⟨i, hexec, hreset⟩⟩ := step_cases hstep
  · rw [hu.devFault, hset] at hclear
    cases hclear
  · rw [State.respond_devFault, hu.devFault, hset] at hclear
    cases hclear
  · refine hreset (by_contra fun hi => ?_)
    have hkept : u.devFault = true → t.devFault = true :=
      (moves_of_exec hexec).lift (R := fun s t => s.devFault = true → t.devFault = true) (fun _ => id)
        (fun _ _ _ f g => g ∘ f) fun _ _ hm => hm.keeps_fault hi
    rw [hkept (hu.devFault.trans hset)] at hclear
    cases hclear

end Sys2Proof.Machine
end

section
/-! Who writes what in the CFC's record: the table of 10_state.md R24 for the nine flags, and R27 to R29 for the class,
the mode view and the captures. -/

namespace Sys2Proof.Machine

/-! ### The nine flags (10_state.md R24) -/

/-- The nine flags of ControllerStatus, by name. -/
inductive Flag where
  | initialized
  | msgWaiting
  | busOn
  | txBusy
  | errWarning
  | dataOverrun
  | errPassive
  | arbLost
  | busError

/-- The value of a flag. -/
def ControllerStatus.flag (x : ControllerStatus) : Flag → Bool
  | .initialized => x.initialized
  | .msgWaiting => x.msgWaiting
  | .busOn => x.busOn
  | .txBusy => x.txBusy
  | .errWarning => x.errWarning
  | .dataOverrun => x.dataOverrun
  | .errPassive => x.errPassive
  | .arbLost => x.arbLost
  | .busError => x.busError

/-- The table of R24: whether an instruction may change a flag to a value. -/
def MayFlip (i : Instr) : Flag → Bool → Prop
  | .initialized, true => ∃ m, i = .setMode m ∧ m.getLsbD 0 = false
  | .initialized, false => i = .reset
  | .msgWaiting, true => i = .handleInterrupt ∨ i = .tryReceive
  | .msgWaiting, false => i = .tryReceive ∨ i = .reset
  | .busOn, true => ∃ m, i = .setMode m ∧ m.getLsbD 0 = false
  | .busOn, false => (∃ m, i = .setMode m ∧ m.getLsbD 0 = true) ∨ i = .handleInterrupt ∨ i = .reset
  | .txBusy, true => ∃ f, i = .transmit f ∨ i = .transmitSs f
  | .txBusy, false => i = .handleInterrupt ∨ (∃ m, i = .setMode m) ∨ i = .reset
  | .errWarning, true => i = .handleInterrupt
  | .errWarning, false => i = .handleInterrupt ∨ (∃ m, i = .setMode m) ∨ i = .reset
  | .dataOverrun, true => i = .handleInterrupt
  | .dataOverrun, false => i = .tryReceive ∨ i = .reset
  | .errPassive, true => i = .handleInterrupt
  | .errPassive, false => i = .handleInterrupt ∨ (∃ m, i = .setMode m) ∨ i = .reset
  | .arbLost, true => i = .handleInterrupt
  | .arbLost, false => i = .ackEvents ∨ i = .reset
  | .busError, true => i = .handleInterrupt
  | .busError, false => i = .ackEvents ∨ i = .reset

/-- From `s` to `t` an instruction changed only flags that the table gives it. -/
def FlagsByTable (i : Instr) (s t : State) : Prop :=
  ∀ f, t.status.flag f = s.status.flag f ∨ MayFlip i f (t.status.flag f)

theorem FlagsByTable.refl (i : Instr) (s : State) : FlagsByTable i s s := fun _ => .inl rfl

theorem FlagsByTable.trans {i : Instr} {s t u : State} (h : FlagsByTable i s t) (g : FlagsByTable i t u) :
    FlagsByTable i s u := by
  intro f
  obtain hg | hg := g f
  · rw [hg]; exact h f
  · exact .inr hg

/-- A change of the flag that the table allows. -/
theorem FlagsByTable.flip {i : Instr} {s t : State} (h : FlagsByTable i s t) {f : Flag} {a b : Bool}
    (hs : s.status.flag f = a) (ht : t.status.flag f = b) (hab : a ≠ b) : MayFlip i f b := by
  obtain h | h := h f
  · rw [hs, ht] at h
    exact absurd h.symm hab
  · exact ht ▸ h

/-- Of an interrupt the table allows any change of the two error flags. -/
theorem mayFlip_errorFlags (b : Bool) :
    MayFlip .handleInterrupt .errWarning b ∧ MayFlip .handleInterrupt .errPassive b := by
  cases b <;> simp [MayFlip]

theorem applyClass_flagsByTable (s : State) (cls : BusClass) : FlagsByTable .handleInterrupt s (s.applyClass cls) := by
  intro f
  unfold State.applyClass
  split
  · cases f with
    | errWarning => exact .inr (mayFlip_errorFlags _).1
    | errPassive => exact .inr (mayFlip_errorFlags _).2
    | busOn => exact .inr (.inr (.inl rfl))
    | _ => exact .inl rfl
  split
  · exact .inl rfl
  · cases f with
    | errWarning => exact .inr (mayFlip_errorFlags _).1
    | errPassive => exact .inr (mayFlip_errorFlags _).2
    | _ => exact .inl rfl

/-- Bit 0 of the mode byte is 0 for operating mode (30_encoding.md R91). -/
theorem modeOfByte_op_operating {m : Byte} (h : (modeOfByte m).op = .operating) : m.getLsbD 0 = false := by
  unfold modeOfByte at h
  dsimp only at h
  split at h
  · cases h
  · rename_i hm
    exact eq_false_of_ne_true hm

theorem modeOfByte_op_reset {m : Byte} (h : (modeOfByte m).op = .reset) : m.getLsbD 0 = true := by
  unfold modeOfByte at h
  dsimp only at h
  split at h
  · assumption
  · cases h

theorem enterMode_flagsByTable (s : State) (m : Byte) :
    FlagsByTable (.setMode m) s (s.enterMode (modeOfByte m)) := by
  intro f
  cases hop : (modeOfByte m).op with
  | operating =>
    have hm := modeOfByte_op_operating hop
    rw [State.enterMode_operating hop]
    cases f with
    | initialized => exact .inr ⟨m, rfl, hm⟩
    | busOn => exact .inr ⟨m, rfl, hm⟩
    | txBusy => exact .inr (.inr (.inl ⟨m, rfl⟩))
    | _ => exact .inl rfl
  | reset =>
    rw [State.enterMode_reset hop]
    cases f with
    | busOn => exact .inr (.inl ⟨m, rfl, modeOfByte_op_reset hop⟩)
    | txBusy => exact .inr (.inr (.inl ⟨m, rfl⟩))
    | _ => exact .inl rfl

/-- Every flag is 0 after RESET, as the table allows. -/
theorem resetFields_flagsByTable (s : State) : FlagsByTable .reset s s.resetPulse.resetFields := by
  intro f
  cases f <;> exact .inr (by simp [State.resetFields, ControllerStatus.reset, ControllerStatus.flag, MayFlip])

/-- Every move changes only flags that the table gives its instruction. -/
theorem Move.flagsByTable {start s t : State} {i : Instr} (hm : Move start i s t) : FlagsByTable i s t := by
  cases hm with
  | event | respond | read | write | lose | fault | captureEcc | captureAlc | act => exact fun _ => .inl rfl
  | classify cls => exact applyClass_flagsByTable s cls
  | enterMode m => exact enterMode_flagsByTable s m
  | reset => exact resetFields_flagsByTable s
  | request h =>
    intro f
    cases f with
    | txBusy => exact .inr ⟨_, h⟩
    | _ => exact .inl rfl
  | countMessages b => exact fun f => by cases f <;> cases b <;> simp [ControllerStatus.flag, MayFlip]
  | acknowledgeOverrun | overrun | busError | arbLost | receive | transmitOver | ackEvents =>
    exact fun f => by cases f <;> simp [ControllerStatus.flag, MayFlip]

/-- Settles O58: the table holds of every move, so of every instruction. -/
theorem flagWriters : Obligations.FlagWriters := by
  unfold Obligations.FlagWriters
  intro i s
  obtain ⟨t, hexec, hmoves⟩ := exec_moves i s
  have htable : FlagsByTable i s t :=
    hmoves.lift (.refl i) (fun _ _ _ h g => h.trans g) fun _ _ hm => hm.flagsByTable
  have hset (f : Flag) (hs : s.status.flag f = false) (ht : t.status.flag f = true) : MayFlip i f true :=
    htable.flip hs ht nofun
  have hclear (f : Flag) (hs : s.status.flag f = true) (ht : t.status.flag f = false) : MayFlip i f false :=
    htable.flip hs ht nofun
  exact ⟨t, hexec, hset .initialized, hclear .initialized, hset .msgWaiting, hclear .msgWaiting, hset .busOn,
    hclear .busOn, hset .txBusy, hclear .txBusy, hset .errWarning, hclear .errWarning, hset .dataOverrun,
    hclear .dataOverrun, hset .errPassive, hclear .errPassive, hset .arbLost, hclear .arbLost, hset .busError,
    hclear .busError⟩

/-! ### The class, the mode view and the captures (10_state.md R27 to R29) -/

/-- What an instruction may do to the class. -/
def ClassByRule (i : Instr) (s t : State) : Prop :=
  t.busClass = s.busClass ∨ (i = .handleInterrupt ∧ s.busClass ≠ .busOff) ∨
    ((∃ m, i = .setMode m ∧ m.getLsbD 0 = false) ∧ s.busClass = .busOff ∧ t.busClass = .active) ∨
    (i = .reset ∧ t.busClass = .active)

/-- What an instruction may do to the mode view. -/
def ModeByRule (i : Instr) (s t : State) : Prop :=
  t.mode = s.mode ∨ (∃ m, i = .setMode m) ∨ i = .reset ∨
    (i = .handleInterrupt ∧ t.busClass = .busOff ∧ t.mode = { s.mode with op := .reset })

/-- What an instruction may do to a capture, from its value before to the one after. -/
def CaptureByRule (i : Instr) (before after : Option Byte) : Prop :=
  after = before ∨ (i = .handleInterrupt ∧ after ≠ none) ∨ (i = .reset ∧ after = none)

theorem CaptureByRule.trans {i : Instr} {a b c : Option Byte} (h : CaptureByRule i a b) (g : CaptureByRule i b c) :
    CaptureByRule i a c := by
  obtain rfl | g := g
  · exact h
  · exact .inr g

theorem ClassByRule.trans {i : Instr} {s t u : State} (h : ClassByRule i s t) (g : ClassByRule i t u) :
    ClassByRule i s u := by
  obtain hg | ⟨rfl, hg⟩ | ⟨⟨m, rfl, hm⟩, hg, hg'⟩ | hg := g
  · unfold ClassByRule
    rw [hg]
    exact h
  · -- an interrupt: what was no BUS_OFF on the way was none before
    obtain hh | hh | ⟨⟨m, hi, -⟩, -⟩ | ⟨hi, -⟩ := h
    · exact .inr (.inl ⟨rfl, hh ▸ hg⟩)
    · exact .inr (.inl hh)
    · cases hi
    · cases hi
  · -- a second recovery finds no BUS_OFF any more
    obtain hh | ⟨hi, -⟩ | ⟨-, -, hh⟩ | ⟨hi, -⟩ := h
    · exact .inr (.inr (.inl ⟨⟨m, rfl, hm⟩, hh ▸ hg, hg'⟩))
    · cases hi
    · rw [hh] at hg
      cases hg
    · cases hi
  · exact .inr (.inr (.inr hg))

/-- Once an interrupt has found bus-off, the class stays. -/
theorem ClassByRule.busOff_kept {t u : State} (g : ClassByRule .handleInterrupt t u) (h : t.busClass = .busOff) :
    u.busClass = .busOff := by
  obtain hg | ⟨-, hg⟩ | ⟨⟨m, hi, -⟩, -⟩ | ⟨hi, -⟩ := g
  · exact hg.trans h
  · exact absurd h hg
  · cases hi
  · cases hi

theorem ModeByRule.trans {i : Instr} {s t u : State} (h : ModeByRule i s t) (g : ModeByRule i t u)
    (gc : ClassByRule i t u) : ModeByRule i s u := by
  obtain hg | hg | hg | ⟨rfl, hc, hg⟩ := g
  · obtain hh | hh | hh | ⟨rfl, hc, hh⟩ := h
    · exact .inl (hg.trans hh)
    · exact .inr (.inl hh)
    · exact .inr (.inr (.inl hh))
    · exact .inr (.inr (.inr ⟨rfl, gc.busOff_kept hc, hg.trans hh⟩))
  · exact .inr (.inl hg)
  · exact .inr (.inr (.inl hg))
  · refine .inr (.inr (.inr ⟨rfl, hc, hg.trans ?_⟩))
    obtain hh | ⟨m, hi⟩ | hi | ⟨-, -, hh⟩ := h
    · rw [hh]
    · cases hi
    · cases hi
    · rw [hh]

/-- The class, the mode view and the captures changed by these rules. -/
structure RecordByRules (i : Instr) (s t : State) : Prop where
  cls : ClassByRule i s t
  mode : ModeByRule i s t
  ecc : CaptureByRule i s.eccCap t.eccCap
  alc : CaptureByRule i s.alcCap t.alcCap

theorem RecordByRules.trans {i : Instr} {s t u : State} (h : RecordByRules i s t) (g : RecordByRules i t u) :
    RecordByRules i s u :=
  ⟨h.cls.trans g.cls, h.mode.trans g.mode g.cls, h.ecc.trans g.ecc, h.alc.trans g.alc⟩

theorem RecordByRules.refl (i : Instr) (s : State) : RecordByRules i s s := ⟨.inl rfl, .inl rfl, .inl rfl, .inl rfl⟩

theorem applyClass_recordByRules (s : State) (cls : BusClass) :
    RecordByRules .handleInterrupt s (s.applyClass cls) := by
  unfold State.applyClass
  split
  · refine ⟨?_, .inr (.inr (.inr ⟨rfl, rfl, rfl⟩)), .inl rfl, .inl rfl⟩
    by_cases hs : s.busClass = .busOff
    · exact .inl hs.symm
    · exact .inr (.inl ⟨rfl, hs⟩)
  split
  · exact .refl _ s
  · rename_i hs
    exact ⟨.inr (.inl ⟨rfl, hs⟩), .inl rfl, .inl rfl, .inl rfl⟩

theorem enterMode_recordByRules (s : State) (m : Byte) :
    RecordByRules (.setMode m) s (s.enterMode (modeOfByte m)) := by
  cases hop : (modeOfByte m).op with
  | operating =>
    rw [State.enterMode_operating hop]
    refine ⟨?_, .inr (.inl ⟨m, rfl⟩), .inl rfl, .inl rfl⟩
    by_cases hc : s.busClass = .busOff
    · exact .inr (.inr (.inl ⟨⟨m, rfl, modeOfByte_op_operating hop⟩, hc, if_pos hc⟩))
    · exact .inl (if_neg hc)
  | reset =>
    rw [State.enterMode_reset hop]
    exact ⟨.inl rfl, .inr (.inl ⟨m, rfl⟩), .inl rfl, .inl rfl⟩

theorem Move.recordByRules {start s t : State} {i : Instr} (hm : Move start i s t) : RecordByRules i s t := by
  cases hm with
  | classify cls => exact applyClass_recordByRules s cls
  | enterMode m => exact enterMode_recordByRules s m
  | captureEcc v => exact ⟨.inl rfl, .inl rfl, .inr (.inl ⟨rfl, nofun⟩), .inl rfl⟩
  | captureAlc v => exact ⟨.inl rfl, .inl rfl, .inl rfl, .inr (.inl ⟨rfl, nofun⟩)⟩
  | reset =>
    exact ⟨.inr (.inr (.inr ⟨rfl, rfl⟩)), .inr (.inr (.inl rfl)), .inr (.inr ⟨rfl, rfl⟩), .inr (.inr ⟨rfl, rfl⟩)⟩
  | _ => exact ⟨.inl rfl, .inl rfl, .inl rfl, .inl rfl⟩

/-- Settles O59: the rules hold of every move, so of every instruction. -/
theorem classModeAndCaptureWriters : Obligations.ClassModeAndCaptureWriters := by
  unfold Obligations.ClassModeAndCaptureWriters
  intro i s
  obtain ⟨t, hexec, hmoves⟩ := exec_moves i s
  have hrules : RecordByRules i s t :=
    hmoves.lift (.refl i) (fun _ _ _ h g => h.trans g) fun _ _ hm => hm.recordByRules
  exact ⟨t, hexec, hrules.cls.resolve_left, hrules.mode.resolve_left, hrules.ecc.resolve_left,
    hrules.alc.resolve_left⟩

end Sys2Proof.Machine
end

section
/-! The controller beside the CFC: what its events and turns leave alone (10_state.md R31), and its hardware reset
(70_reset_and_hazards.md R340, R341). -/

namespace Sys2Proof.Machine

/-! ### Events and turns at the controller (10_state.md R31) -/

/-- An event at the controller is one step, and the controller after it stands in for the one before. -/
theorem step_environment {s : State} {rest : List Input} {e : EnvEvent} (h : s.inputs = .environment e :: rest) :
    step s = .next { s with
      inputs := rest, controller := s.controller.onEvent s.params (Config.freeByte s.accesses) e } := by
  simp only [step, fetch, h]
  rfl

/-- A requested reset is performed on the controller's next turn (70_reset_and_hazards.md R341; log 16). -/
theorem step_controller_reset {s : State} {rest : List Input} (h : s.inputs = .controller :: rest)
    (hreset : s.controller.resetRequested = true) :
    step s = .next { s with inputs := rest, controller := Controller.reset } := by
  simp only [step, fetch, h, fetchLatch, State.withInputs_controller, hreset]
  rfl

/-- With nothing latched and no reset requested the controller has nothing to do. -/
theorem step_controller_idle {s : State} {rest : List Input} (h : s.inputs = .controller :: rest)
    (hreset : s.controller.resetRequested = false) (hlatch : s.controller.latch = []) :
    step s = .next { s with inputs := rest } := by
  simp only [step, fetch, h, fetchLatch, State.withInputs_controller, hreset, hlatch]
  rfl

/-- The seven command bytes change the controller alone (10_state.md R42). -/
theorem exec_of_decodeCmr {b : Byte} {i : Instr} (h : decodeCmr b = .ok i) (s : State) :
    ∃ c, exec i s = .next (s.withController c) := by
  unfold decodeCmr at h
  split at h <;> cases h <;> exact ⟨_, rfl⟩

/-- A latched byte, on the controller's turn: refused, or a change of the controller alone. -/
theorem step_controller_latch {s t : State} {rest : List Input} {b : Byte} {bs : List Byte}
    (h : s.inputs = .controller :: rest) (hreset : s.controller.resetRequested = false)
    (hlatch : s.controller.latch = b :: bs) (hstep : step s = .next t) :
    ∃ c, t = { s with inputs := rest, controller := c } := by
  simp only [step, fetch_controller_latch h hreset hlatch, fetchedOf, decode] at hstep
  cases hdec : decodeCmr b with
  | ok i =>
    obtain ⟨c, hc⟩ := exec_of_decodeCmr hdec ((s.withInputs rest).withController { s.controller with latch := bs })
    simp only [hdec, hc, Host.Outcome.next.injEq] at hstep
    exact ⟨c, hstep.symm⟩
  | error r =>
    simp only [hdec] at hstep
    cases r with
    | illegalCommand w =>
      injection hstep with hstep
      unfold decodeCmr at hdec
      split at hdec <;> cases hdec
    | reservedCmrByte w => cases hstep

/-- Settles O49, from one equation of `step` for each thing the controller can do on its own. -/
theorem controllerActsWithoutTheCfc : Obligations.ControllerActsWithoutTheCfc := by
  unfold Obligations.ControllerActsWithoutTheCfc
  refine ⟨?_, fun s rest e h => step_environment h, fun s rest h hreset hlatch => step_controller_idle h hreset hlatch,
    fun s => ⟨_, rfl, rfl⟩, fun s rest h hreset => step_controller_reset h hreset⟩
  intro s t rest hin hstep
  have honly : ∃ c, t = { s with inputs := rest, controller := c } := by
    obtain ⟨e, h⟩ | h := hin
    · rw [step_environment h] at hstep
      injection hstep with hstep
      exact ⟨_, hstep.symm⟩
    · cases hreset : s.controller.resetRequested with
      | true =>
        rw [step_controller_reset h hreset] at hstep
        injection hstep with hstep
        exact ⟨_, hstep.symm⟩
      | false =>
        cases hlatch : s.controller.latch with
        | nil =>
          rw [step_controller_idle h hreset hlatch] at hstep
          injection hstep with hstep
          exact ⟨s.controller, hstep.symm⟩
        | cons b bs => exact step_controller_latch h hreset hlatch hstep
  obtain ⟨c, rfl⟩ := honly
  rfl

/-! ### The reset state (70_reset_and_hazards.md R340, R341) -/

/-- The FIFO RAM and the transmit buffer have no reset value (log 13). -/
theorem resetByte_ram {n : Nat} (h : 32 ≤ n) : resetByte n = none := by
  obtain ⟨m, rfl⟩ := Nat.exists_eq_add_of_le' h
  simp [resetByte]

/-- The acceptance filter is 0x00 after the hardware reset (log 12). -/
theorem resetByte_filter {n : Nat} (h : 16 ≤ n) (g : n ≤ 23) : resetByte n = some 0x00 := by
  interval_cases n <;> rfl

/-- Outside SR, RMC and the receive buffer of operating mode an offset shows its own cell (10_state.md R40). -/
theorem Controller.shows_eq_cell {c : Controller} (free : Byte) {off : Offset} (h2 : off.toNat ≠ 2)
    (h29 : off.toNat ≠ 29) (h : c.inResetMode = true ∨ off.toNat < 16 ∨ 28 < off.toNat) :
    c.shows free off = c.cell free off.toNat := by
  simp only [Controller.shows, h2, h29, if_false]
  refine if_neg fun hbuf => ?_
  obtain h | h | h := h
  · exact hbuf.2.2 h
  · omega
  · omega

/-- Settles O53. -/
theorem resetMeetsTheInvariants : Obligations.ResetMeetsTheInvariants := by
  unfold Obligations.ResetMeetsTheInvariants
  have hcell (free : Byte) {n : Nat} (h : n < 128) (h2 : n ≠ 2) (h29 : n ≠ 29) :
      State.reset.controller.shows free (BitVec.ofNat 7 n) = (resetByte n).getD free := by
    have hn : (BitVec.ofNat 7 n).toNat = n := by rw [BitVec.toNat_ofNat]; omega
    rw [Controller.shows_eq_cell free (by omega) (by omega) (.inl rfl), hn]
    rfl
  refine ⟨by simp [State.healthConsistent, State.reset, ControllerStatus.reset], rfl, rfl, fun _ _ _ => rfl,
    fun free => ⟨rfl, (by decide : Controller.reset.statusRegister = 0x3C), rfl, rfl, rfl, rfl, rfl, rfl, rfl, rfl,
      rfl, fun n h g => ?_, rfl, rfl, rfl, rfl, fun n h g => ?_⟩, rfl, rfl, rfl, rfl, rfl⟩
  · exact (hcell free (by omega) (by omega) (by omega)).trans (by rw [resetByte_ram h, Option.getD_none])
  · exact (hcell free (by omega) (by omega) (by omega)).trans (by rw [resetByte_filter h g, Option.getD_some])

end Sys2Proof.Machine
end

section
/-! What the register map shows of the controller (10_state.md R40, R43, R52 to R58), what a write in the buffer area
leaves there, and the seven command bytes (R42). -/

namespace Sys2Proof.Machine

/-! ### What an offset shows -/

theorem offset_toNat {n : Nat} (h : n < 128) : (BitVec.ofNat 7 n).toNat = n := by
  rw [BitVec.toNat_ofNat]
  omega

/-- The same, for an offset given by its number. -/
theorem Controller.shows_ofNat {c : Controller} (free : Byte) {n : Nat} (hn : n < 128) (h2 : n ≠ 2) (h29 : n ≠ 29)
    (h : c.inResetMode = true ∨ n < 16 ∨ 28 < n) : c.shows free (BitVec.ofNat 7 n) = c.cell free n := by
  have e := offset_toNat hn
  rw [Controller.shows_eq_cell free (by omega) (by omega) (by rw [e]; exact h), e]

/-- In operating mode offsets 16 to 28 show the receive buffer (10_state.md R52). -/
theorem Controller.shows_buffer {c : Controller} (h : c.inResetMode = false) (free : Byte) {k : Nat} (hk : k ≤ 12) :
    c.shows free (BitVec.ofNat 7 (16 + k)) = c.cell free (c.bufferCell k) := by
  have e : (BitVec.ofNat 7 (16 + k)).toNat = 16 + k := offset_toNat (by omega)
  simp only [Controller.shows, e]
  rw [if_neg (by omega), if_neg (by omega), if_pos ⟨by omega, by omega, by simp [h]⟩, Nat.add_sub_cancel_left]

/-- RBSA shows its cell, whatever stands for open values. -/
theorem Controller.shows_rbsa (c : Controller) (free : Byte) : c.shows free 30 = c.cell 0 30 :=
  (Controller.shows_eq_cell free (by decide) (by decide) (.inr (.inr (by decide)))).trans
    (Controller.cell_free c rfl free 0)

theorem Controller.bufferStart_toNat (c : Controller) : c.bufferStart.toNat = (c.cell 0 30).toNat % 64 := by
  simp [Controller.bufferStart, BitVec.extractLsb'_toNat]

/-- Receive buffer byte `k` stands `k` places behind the address in RBSA, modulo 64 (log 27). -/
theorem Controller.bufferCell_eq (c : Controller) (k : Nat) : c.bufferCell k = 32 + ((c.cell 0 30).toNat + k) % 64 := by
  rw [Controller.bufferCell, fifoCell_add, Controller.bufferStart_toNat]
  omega

/-- SR.TBS: no request is in progress or in the latch (10_state.md R32 (a), R43). -/
theorem Controller.txPending_eq_false_iff (c : Controller) :
    c.txPending = false ↔ c.inFlight = none ∧ ∀ b ∈ c.latch, b.getLsbD 0 = false ∧ b.getLsbD 4 = false := by
  simp only [Controller.txPending, requestsTransmission, Bool.or_eq_false_iff, Option.isSome_eq_false_iff,
    Option.isNone_iff_eq_none, List.any_eq_false, Bool.not_eq_true]

/-- In operating mode SR.TS is the transmission in progress at a controller that can transmit (log 14). -/
theorem Controller.transmitting_iff {c : Controller} (h : c.inResetMode = false) :
    c.transmitting = true ↔ c.inFlight ≠ none ∧ c.CanTransmit := by
  rw [Controller.CanTransmit_iff]
  simp [Controller.transmitting, h, Option.isSome_iff_ne_none]

/-- SR.ES, from what the register map shows of the counters and the limit (10_state.md R43). -/
theorem Controller.errorStatus_iff (c : Controller) (free : Byte) :
    c.errorStatus = true ↔ (c.shows free 13).toNat ≤ (c.shows free 14).toNat ∨
      (c.shows free 13).toNat ≤ (c.shows free 15).toNat := by
  have e (off : Offset) (h : off ∈ ([13, 14, 15] : List Offset)) : c.shows free off = c.cell 0 off.toNat := by
    fin_cases h <;> exact Controller.cell_free c rfl free 0
  rw [e 13 (by simp), e 14 (by simp), e 15 (by simp)]
  simp [Controller.errorStatus]

/-! ### A write in the buffer area -/

/-- In reset mode offsets 16 to 23 are the acceptance filter (10_state.md R54). -/
theorem Controller.writeCell_filter {c : Controller} (h : c.inResetMode = true) {k : Nat} (hk : k ≤ 7) :
    c.writeCell (BitVec.ofNat 7 (16 + k)) = some (16 + k) := by
  simp only [Controller.writeCell, offset_toNat (show 16 + k < 128 by omega), h, if_true]
  interval_cases k <;> rfl

/-- In operating mode offsets 16 to 28 are the transmit buffer, while none is pending (10_state.md R53; 20_memory.md
R66 (b)). -/
theorem Controller.writeCell_buffer {c : Controller} (h : c.inResetMode = false) {k : Nat} (hk : k ≤ 12) :
    c.writeCell (BitVec.ofNat 7 (16 + k)) = if c.txPending then none else some (96 + k) := by
  simp only [Controller.writeCell, offset_toNat (show 16 + k < 128 by omega), h]
  rw [if_neg (by simp [writableAlways]; omega), if_neg (by simp), if_pos (by omega), show 16 + k + 80 = 96 + k by omega]

/-- A write that stores in a cell that decides no interrupt sets the cell, and nothing else. -/
theorem Controller.afterWrite_of_writeCell {c : Controller} (limit : Nat) {off : Offset} (v : Byte) {a : Nat}
    (hoff : off.toNat ≠ 1) (hcell : c.writeCell off = some a) (ha : 16 ≤ a) :
    c.afterWrite limit off v = c.setCell a v := by
  rw [Controller.afterWrite, if_neg hoff, hcell]
  exact if_neg (by omega)

/-- In operating mode a write in the buffer area stores in the transmit buffer, or nowhere. -/
theorem Controller.afterWrite_buffer {c : Controller} (h : c.inResetMode = false) (limit : Nat) {k : Nat} (hk : k ≤ 12)
    (v : Byte) : c.afterWrite limit (BitVec.ofNat 7 (16 + k)) v = if c.txPending then c else c.setCell (96 + k) v := by
  have hone : (BitVec.ofNat 7 (16 + k)).toNat ≠ 1 := by rw [offset_toNat (by omega)]; omega
  have hcell := Controller.writeCell_buffer h hk
  cases hp : c.txPending with
  | true => rw [Controller.afterWrite, if_neg hone, hcell, hp]; rfl
  | false => rw [Controller.afterWrite_of_writeCell limit v hone (by rw [hcell, hp]; rfl) (by omega)]; rfl

/-- Setting any cell but MOD leaves the mode. -/
theorem Controller.setCell_inResetMode {c : Controller} (h : c.regs.wf = true) {b : Nat} (hb : b ≠ 0) (v : Byte) :
    (c.setCell b v).inResetMode = c.inResetMode := by
  rw [Controller.inResetMode, Controller.setCell_cell h, if_neg hb.symm]
  rfl

/-- Nothing written to the transmit buffer shows in the receive buffer. -/
theorem Controller.shows_buffer_setCell {c : Controller} (h : c.regs.wf = true) (hmode : c.inResetMode = false)
    {j : Nat} (hj : j ≤ 12) {b : Nat} (hb : 96 ≤ b) (v free : Byte) :
    (c.setCell b v).shows free (BitVec.ofNat 7 (16 + j)) = c.shows free (BitVec.ofNat 7 (16 + j)) := by
  have hrbsa : (c.setCell b v).cell 0 30 = c.cell 0 30 := by rw [Controller.setCell_cell h, if_neg (by omega)]
  have hmode' : (c.setCell b v).inResetMode = false := by rw [Controller.setCell_inResetMode h (by omega), hmode]
  rw [Controller.shows_buffer hmode' free hj, Controller.shows_buffer hmode free hj, Controller.bufferCell_eq, hrbsa,
    ← Controller.bufferCell_eq, Controller.setCell_cell h, if_neg]
  rw [Controller.bufferCell_eq]
  omega

theorem Controller.messageCount_toNat (c : Controller) : c.messageCount.toNat = c.fifoCount % 32 := by
  rw [Controller.messageCount, BitVec.toNat_ofNat]
  omega

/-- In reset mode the acceptance filter shows the byte written (10_state.md R54). -/
theorem Controller.afterWrite_filter_shows {c : Controller} (h : c.regs.wf = true) (hmode : c.inResetMode = true)
    (limit : Nat) {k : Nat} (hk : k ≤ 7) (v free : Byte) :
    (c.afterWrite limit (BitVec.ofNat 7 (16 + k)) v).shows free (BitVec.ofNat 7 (16 + k)) = v := by
  have hone : (BitVec.ofNat 7 (16 + k)).toNat ≠ 1 := by rw [offset_toNat (by omega)]; omega
  rw [Controller.afterWrite_of_writeCell limit v hone (Controller.writeCell_filter hmode hk) (by omega),
    Controller.shows_ofNat free (by omega) (by omega) (by omega)
      (.inl (by rw [Controller.setCell_inResetMode h (by omega), hmode])),
    Controller.setCell_cell h, if_pos rfl, registerMask_full (by omega) (by omega)]

/-- Settles O41: SR bit by bit, then the other offsets by the three forms of `shows`, then the writes. -/
theorem registerMapShowsTheController : Obligations.RegisterMapShowsTheController := by
  unfold Obligations.RegisterMapShowsTheController
  intro c free
  have hsr : c.shows free 2 = c.statusRegister := rfl
  obtain ⟨hrbs, hdos, htbs, htcs, hrs, hts, hes, hbs⟩ := c.statusRegister_getLsbD
  rw [hsr]
  refine ⟨hrbs, ?_, ?_, fun hmode => ?_, ?_, ?_, c.messageCount_toNat, ?_, ?_, ?_, ?_⟩
  · rw [htbs, Bool.not_eq_true', Controller.txPending_eq_false_iff]
  · rw [htcs, htbs, Controller.transmissionComplete]
  · rw [hts, Controller.transmitting_iff hmode]
  · rw [hes, Controller.errorStatus_iff c free]
  · intro j hj
    fin_cases hj
    · exact hdos
    · exact hrs
    · exact hbs
  · intro off hoff harea
    simp only [List.mem_cons, List.not_mem_nil, or_false, not_or] at hoff
    exact Controller.shows_eq_cell free hoff.1 hoff.2 harea
  · intro k hk hmode
    rw [Controller.shows_buffer hmode free hk, Controller.shows_rbsa, Controller.bufferCell_eq,
      Controller.shows_ofNat free (by omega) (by omega) (by omega) (.inr (.inr (by omega)))]
  · intro k hk hmode
    rw [Controller.shows_ofNat free (by omega) (by omega) (by omega) (.inl hmode)]
    exact Controller.read_eq_cell c (by rw [resetByte_filter (by omega) (by omega)]; rfl) free
  · refine fun limit j k v hwf => ⟨fun hmode hk => Controller.afterWrite_filter_shows hwf hmode limit hk v free,
      fun hmode hj hk => ?_⟩
    rw [Controller.afterWrite_buffer hmode limit hk]
    split
    · rfl
    · exact Controller.shows_buffer_setCell hwf hmode hj (by omega) v free

/-- Where the controller answers from its registers, TX_READBACK returns what the shadow shows (41_transmit.md R178). -/
theorem exec_txReadback_of_held {s : State} (hfault : s.devFault = false) {k : Nat} (hk : k ≤ 12)
    (hheld : s.answerAt s.accesses = .held) :
    ∃ t free, exec (.txReadback (BitVec.ofNat 8 k)) s = .next t ∧
      t.response = some { result := .ok, outs := .byte (s.controller.shows free (BitVec.ofNat 7 (96 + k))) } := by
  have hkn : (BitVec.ofNat 8 k).toNat = k := by rw [BitVec.toNat_ofNat]; omega
  have hlegal : indexLegal (BitVec.ofNat 8 k) = true := by simp only [indexLegal, hkn, decide_eq_true hk]
  have hvalue : s.select.readValue (BitVec.ofNat 7 (96 + k)) =
      some (s.controller.shows (Config.freeByte s.accesses (BitVec.ofNat 7 (96 + k)).toNat)
        (BitVec.ofNat 7 (96 + k))) := by
    rw [State.readValue_congr (s := s) (t := s.select) rfl rfl rfl]
    simp only [State.readValue, hheld]
  refine ⟨_, Config.freeByte s.accesses (BitVec.ofNat 7 (96 + k)).toNat, rfl, ?_⟩
  rw [hfault, hlegal, hkn, regRead_of_value hvalue]
  rfl

/-- Settles O42. -/
theorem txShadowShowsTheLastWrite : Obligations.TxShadowShowsTheLastWrite := by
  unfold Obligations.TxShadowShowsTheLastWrite
  intro c limit k b free hwf hmode hpending hk
  have hafter : c.afterWrite limit (BitVec.ofNat 7 (16 + k)) b = c.setCell (96 + k) b := by
    rw [Controller.afterWrite_buffer hmode limit hk, hpending]
    rfl
  have hshadow (free : Byte) : (c.setCell (96 + k) b).shows free (BitVec.ofNat 7 (96 + k)) = b := by
    rw [Controller.shows_ofNat free (by omega) (by omega) (by omega) (.inr (.inr (by omega))),
      Controller.setCell_cell hwf, if_pos rfl, registerMask_full (by omega) (by omega)]
  rw [hafter]
  refine ⟨hshadow free, fun a ha => by rw [Controller.setCell_read hwf, if_neg ha], fun s hs hfault hheld => ?_⟩
  obtain ⟨t, free', hexec, hresponse⟩ := exec_txReadback_of_held hfault hk hheld
  rw [hs, hshadow] at hresponse
  exact ⟨t, hexec, hresponse⟩

/-! ### The command bytes (10_state.md R42; 30_encoding.md R100) -/

/-- SR follows the cell of SR in bit 1, DOS, and nothing else of it matters to the other bits. -/
theorem Controller.statusRegister_of_overrun {c d : Controller} (heq : d = { c with regs := d.regs })
    (hread : ∀ a, a ≠ 2 → a ≠ 3 → d.regs.read a = c.regs.read a)
    (hbits : ∀ j < 8, j ≠ 1 → (d.cell 0 2).getLsbD j = (c.cell 0 2).getLsbD j) {j : Nat} (hj : j < 8) :
    d.statusRegister.getLsbD j = if j = 1 then (d.cell 0 2).getLsbD 1 else c.statusRegister.getLsbD j := by
  have hcell (a : Nat) (h2 : a ≠ 2) (h3 : a ≠ 3) : d.cell 0 a = c.cell 0 a := Controller.cell_congr (hread a h2 h3) 0
  have hfifo : d.fifoCount = c.fifoCount := by rw [heq]
  have hflight : d.inFlight = c.inFlight := by rw [heq]
  have hpending : d.txPending = c.txPending := by rw [heq]; rfl
  have hmode : d.inResetMode = c.inResetMode := by
    rw [Controller.inResetMode, hcell 0 (by decide) (by decide), Controller.inResetMode]
  have hmay : d.mayTransmit = c.mayTransmit :=
    (Controller.bus_congr (hread 0 (by decide) (by decide)) (hbits 7 (by decide) (by decide))).2
  obtain ⟨c0, c1, c2, c3, c4, c5, c6, c7⟩ := c.statusRegister_getLsbD
  obtain ⟨d0, d1, d2, d3, d4, d5, d6, d7⟩ := d.statusRegister_getLsbD
  interval_cases j
  · rw [d0, hfifo]; exact c0.symm
  · exact d1
  · rw [d2, hpending]; exact c2.symm
  · rw [d3, Controller.transmissionComplete, hpending, hbits 3 (by decide) (by decide)]; exact c3.symm
  · rw [d4, hbits 4 (by decide) (by decide)]; exact c4.symm
  · rw [d5, Controller.transmitting, hflight, hmay, hmode, hbits 5 (by decide) (by decide)]; exact c5.symm
  · rw [d6, Controller.errorStatus, hcell 13 (by decide) (by decide), hcell 14 (by decide) (by decide),
      hcell 15 (by decide) (by decide)]
    exact c6.symm
  · rw [d7, Controller.busStatus, hbits 7 (by decide) (by decide)]; exact c7.symm

/-- Clearing bit 1. -/
theorem getLsbD_and_FD (x : Byte) {j : Nat} (hj : j < 8) :
    (x &&& 0xFD#8).getLsbD j = if j = 1 then false else x.getLsbD j := by
  have hmask : ∀ j < 8, (0xFD#8).getLsbD j = !decide (j = 1) := by decide
  rw [BitVec.getLsbD_and, hmask j hj]
  split <;> simp [*]

/-- Setting bit 1. -/
theorem getLsbD_or_02 (x : Byte) {j : Nat} (hj : j < 8) :
    (x ||| 0x02#8).getLsbD j = if j = 1 then true else x.getLsbD j := by
  have hmask : ∀ j < 8, (0x02#8).getLsbD j = decide (j = 1) := by decide
  rw [BitVec.getLsbD_or, hmask j hj]
  split <;> simp [*]

/-- CDO clears SR.DOS (42_receive.md R207). -/
theorem Controller.clearDataOverrun_spec {c : Controller} (h : c.regs.wf = true) :
    c.ChangesOnly c.clearDataOverrun [2] ∧ c.clearDataOverrun.statusRegister = c.statusRegister &&& 0xFD#8 := by
  have hread (a : Nat) (ha : a ≠ 2) : c.clearDataOverrun.regs.read a = c.regs.read a := by
    rw [Controller.clearDataOverrun, Controller.setCell_read h, if_neg ha]
  have hcell : c.clearDataOverrun.cell 0 2 = c.cell 0 2 &&& 0xFD#8 := by
    rw [Controller.clearDataOverrun, Controller.setCell_cell h, if_pos rfl, registerMask_full (by decide) (by decide)]
  refine ⟨⟨rfl, fun a ha => hread a (by simpa using ha)⟩, BitVec.eq_of_getLsbD_eq fun j hj => ?_⟩
  rw [Controller.statusRegister_of_overrun (c := c) rfl (fun a h2 _ => hread a h2)
    (fun i hi h1 => by rw [hcell, getLsbD_and_FD _ hi, if_neg h1]) hj, hcell, getLsbD_and_FD _ hj,
    getLsbD_and_FD _ (by decide), if_pos rfl]

/-- Bits 7:6 above six new bits. -/
theorem toNat_upper_append (x : Byte) (a : BitVec 6) :
    (x.extractLsb' 6 2 ++ a).toNat % 64 = a.toNat ∧ (x.extractLsb' 6 2 ++ a).toNat / 64 = x.toNat / 64 := by
  have hx := x.isLt
  have ha := a.isLt
  have e : (x.extractLsb' 6 2 ++ a).toNat = x.toNat / 64 * 64 + a.toNat := by
    rw [BitVec.toNat_append, ← Nat.shiftLeft_add_eq_or_of_lt ha, BitVec.extractLsb'_toNat, Nat.shiftLeft_eq,
      Nat.shiftRight_eq_div_pow]
    omega
  omega

/-- The frame-info byte of the oldest message, which gives the length that a release moves past (log 27). -/
def Controller.oldestInfo (c : Controller) (free : Nat → Byte) : Byte := c.cell (free (c.bufferCell 0)) (c.bufferCell 0)

/-- RRB with a message waiting: one less is counted, RBSA bits 5:0 move past it, and nothing else changes
(42_receive.md R205; log 27). -/
theorem Controller.releaseReceiveBuffer_spec {c : Controller} (h : c.regs.wf = true) (free : Nat → Byte)
    (hcount : 0 < c.fifoCount) :
    c.releaseReceiveBuffer free =
      { c with regs := (c.releaseReceiveBuffer free).regs, fifoCount := c.fifoCount - 1 } ∧
    (∀ a, a ≠ 30 → (c.releaseReceiveBuffer free).regs.read a = c.regs.read a) ∧
    ((c.releaseReceiveBuffer free).cell 0 30).toNat % 64 =
      ((c.cell 0 30).toNat + imageLength (c.oldestInfo free)) % 64 ∧
    ((c.releaseReceiveBuffer free).cell 0 30).toNat / 64 = (c.cell 0 30).toNat / 64 := by
  have e : c.releaseReceiveBuffer free =
      { c.moveBuffer (c.bufferStart + BitVec.ofNat 6 (imageLength (c.oldestInfo free))) with
        fifoCount := c.fifoCount - 1 } := if_neg (by omega)
  obtain ⟨-, -, -, hcell, hread⟩ :=
    Controller.moveBuffer_spec h (c.bufferStart + BitVec.ofNat 6 (imageLength (c.oldestInfo free)))
  obtain ⟨hlow, hhigh⟩ := toNat_upper_append (c.cell 0 30)
    (c.bufferStart + BitVec.ofNat 6 (imageLength (c.oldestInfo free)))
  rw [← hcell] at hlow hhigh
  rw [e]
  refine ⟨rfl, hread, hlow.trans ?_, hhigh⟩
  rw [BitVec.toNat_add, BitVec.toNat_ofNat, Controller.bufferStart_toNat]
  omega

/-- Settles O40. -/
theorem cmrCommandsComplete : Obligations.CmrCommandsComplete := by
  unfold Obligations.CmrCommandsComplete
  intro s hcanonical
  refine ⟨⟨rfl, rfl, rfl, rfl⟩, ⟨_, rfl, rfl, fun h => ?_, fun r h => ?_⟩, fun hcount => ?_, fun hcount => ?_, ?_⟩
  · show s.controller.inFlight.map _ = none
    rw [h]
    rfl
  · show s.controller.inFlight.map _ = _
    rw [h]
    rfl
  · have hkept : s.controller.releaseReceiveBuffer (Config.freeByte s.accesses) = s.controller := if_pos hcount
    show Host.Outcome.next (s.withController _) = _
    rw [hkept]
    rfl
  · obtain ⟨heq, hread, hlow, hhigh⟩ :=
      Controller.releaseReceiveBuffer_spec hcanonical (Config.freeByte s.accesses) hcount
    refine ⟨_, rfl, congrArg s.withController heq, hread, s.controller.oldestInfo (Config.freeByte s.accesses),
      fun w hw => ?_, ?_, ?_⟩
    · rw [Controller.shows_rbsa] at hw
      rw [Controller.oldestInfo, Controller.cell, Controller.bufferCell_eq, Nat.add_zero, hw]
      rfl
    · rw [Controller.shows_rbsa, Controller.shows_rbsa]
      exact hlow
    · rw [Controller.shows_rbsa, Controller.shows_rbsa]
      exact hhigh
  · obtain ⟨honly, hsr⟩ := Controller.clearDataOverrun_spec hcanonical
    exact ⟨_, rfl, rfl, honly, hsr⟩

end Sys2Proof.Machine
end

section
/-! TRY_RECEIVE against the register map (10_state.md R43, R52, R55; log 4): the reads of the drain have no side effect
at the controller, so each returns what the map showed when the operation started. -/

namespace Sys2Proof.Machine

/-- From `s` to `t` there were `n` accesses that left the controller, the flags, the answers and the parameters as they
were. -/
structure QuietAccesses (n : Nat) (s t : State) : Prop where
  controller : t.controller = s.controller
  status : t.status = s.status
  answers : t.answers = s.answers
  params : t.params = s.params
  accesses : t.accesses = s.accesses + n

theorem QuietAccesses.trans {m n : Nat} {s t u : State} (h : QuietAccesses m s t) (g : QuietAccesses n t u) :
    QuietAccesses (m + n) s u :=
  ⟨g.controller.trans h.controller, g.status.trans h.status, g.answers.trans h.answers, g.params.trans h.params,
    by rw [g.accesses, h.accesses, Nat.add_assoc]⟩

/-- The answers still to come, counted from the state before. -/
theorem QuietAccesses.answerAt {n : Nat} {s t : State} (h : QuietAccesses n s t) (k : Nat) :
    t.answerAt (t.accesses + k) = s.answerAt (s.accesses + (n + k)) := by
  rw [State.answerAt, State.answerAt, h.answers, h.accesses, Nat.add_assoc]

/-- Only reads of IR, ALC and ECC have a side effect (20_memory.md R65). -/
def readsQuietly (off : Offset) : Prop := off.toNat ≠ 3 ∧ off.toNat ≠ 11 ∧ off.toNat ≠ 12

theorem readsQuietly_buffer {k : Nat} (hk : k ≤ 12) : readsQuietly (bufferOffset k) := by
  unfold readsQuietly
  rw [bufferOffset_toNat hk]
  omega

theorem Controller.afterRead_of_quiet (c : Controller) {off : Offset} (h : readsQuietly off) (v : Byte) :
    c.afterRead off v = c := by
  obtain ⟨h3, h11, h12⟩ := h
  simp only [Controller.afterRead, h3, h11, h12, if_false]

/-- A quiet read answered from the register map returns what the map shows. -/
theorem regRead_of_held {s : State} {off : Offset} {v : Byte} (hheld : s.answerAt (s.accesses + 0) = .held)
    (hquiet : readsQuietly off) (hv : ∀ free, s.controller.shows free off = v) :
    ∃ t, regRead off s = .going v t ∧ QuietAccesses 1 s t := by
  have hvalue : s.readValue off = some v := by
    rw [Nat.add_zero] at hheld
    simp only [State.readValue, hheld, hv]
  exact ⟨_, regRead_of_value hvalue, Controller.afterRead_of_quiet _ hquiet v, rfl, rfl, rfl, rfl⟩

theorem regReadAll_of_held {s : State} {offs : List Offset} {value : Offset → Byte}
    (hheld : ∀ k < offs.length, s.answerAt (s.accesses + k) = .held) (hquiet : ∀ off ∈ offs, readsQuietly off)
    (hv : ∀ free, ∀ off ∈ offs, s.controller.shows free off = value off) :
    ∃ t, regReadAll offs s = .going (offs.map value) t ∧ QuietAccesses offs.length s t := by
  induction offs generalizing s with
  | nil => exact ⟨s, rfl, rfl, rfl, rfl, rfl, rfl⟩
  | cons off offs ih =>
    obtain ⟨t, hread, hone⟩ := regRead_of_held (hheld 0 (by simp)) (hquiet off (by simp))
      fun free => hv free off (by simp)
    have hheld' : ∀ k < offs.length, t.answerAt (t.accesses + k) = .held := fun k hk => by
      rw [hone.answerAt, Nat.add_comm 1 k]
      exact hheld (k + 1) (by simpa using hk)
    obtain ⟨u, hreads, hrest⟩ := ih hheld' (fun o ho => hquiet o (by simp [ho]))
      fun free o ho => by rw [hone.controller]; exact hv free o (by simp [ho])
    refine ⟨u, ?_, by rw [List.length_cons, Nat.add_comm]; exact hone.trans hrest⟩
    simp only [regReadAll, hread, hreads, Access.andThen_going, List.map_cons]

theorem restIndices_length (info : Byte) : (restIndices info).length + 1 = imageLength info := by
  simp only [restIndices, List.length_range', imageLength]
  omega

/-- The frame read from the register map is the one in the bytes the receive buffer shows (42_receive.md R203). -/
theorem readFrame_of_held {s : State} {img : Image}
    (hheld : ∀ k < imageLength (imageByte img 0), s.answerAt (s.accesses + k) = .held)
    (hshows : ∀ free, ∀ k < imageLength (imageByte img 0),
      s.controller.shows free (bufferOffset k) = imageByte img k) :
    ∃ t, readFrame s = .going (decodeImage img) t ∧ QuietAccesses (imageLength (imageByte img 0)) s t := by
  have hlength := restIndices_length (imageByte img 0)
  have hpos : 0 < imageLength (imageByte img 0) := by omega
  obtain ⟨t, hread, hone⟩ := regRead_of_held (hheld 0 hpos) (readsQuietly_buffer (Nat.zero_le _))
    fun free => hshows free 0 hpos
  have hindex {k : Nat} (hk : k ∈ restIndices (imageByte img 0)) : k < imageLength (imageByte img 0) ∧ k ≤ 12 := by
    refine ⟨?_, (restIndices_le _ k hk).2⟩
    simp only [restIndices, List.mem_range'_1] at hk
    simp only [imageLength]
    omega
  have hvalue : ∀ free, ∀ off ∈ (restIndices (imageByte img 0)).map bufferOffset,
      t.controller.shows free off = imageByte img (off.toNat - 16) := fun free => by
    refine List.forall_mem_map.mpr fun k hk => ?_
    rw [hone.controller, hshows free k (hindex hk).1, bufferOffset_toNat (hindex hk).2, Nat.add_sub_cancel_left]
  obtain ⟨u, hreads, hrest⟩ := regReadAll_of_held (s := t)
    (fun k hk => by
      rw [List.length_map] at hk
      rw [hone.answerAt]
      exact hheld (1 + k) (by omega))
    (List.forall_mem_map.mpr fun k hk => readsQuietly_buffer (hindex hk).2) hvalue
  have hbytes : ((restIndices (imageByte img 0)).map bufferOffset).map (fun off => imageByte img (off.toNat - 16)) =
      (restIndices (imageByte img 0)).map (imageByte img) := by
    rw [List.map_map]
    refine List.map_congr_left fun k hk => ?_
    rw [Function.comp_apply, bufferOffset_toNat (hindex hk).2, Nat.add_sub_cancel_left]
  refine ⟨u, ?_, ?_⟩
  · rw [hbytes] at hreads
    simp only [readFrame, hread, hreads, Access.andThen_going]
    rfl
  · rw [← hlength, Nat.add_comm]
    simpa using hone.trans hrest

/-- With its write answered, the overrun acknowledgment goes on and leaves the message-waiting flag. -/
theorem acknowledgeOverrun_going {s : State} (h : s.status.dataOverrun = true → s.answerAt s.accesses ≠ .noresp) :
    ∃ t, acknowledgeOverrun s = .going () t ∧ t.status.msgWaiting = s.status.msgWaiting := by
  unfold acknowledgeOverrun
  split
  · rename_i hoverrun
    rw [regWrite_of_responds (h hoverrun)]
    exact ⟨_, rfl, rfl⟩
  · exact ⟨s, rfl, rfl⟩

@[simp] theorem State.emitIfChanged_status (start s : State) : (start.emitIfChanged s).status = s.status := by
  rw [State.emitIfChanged_eq]

/-- The end of a drain: the message counter is read, the message released, the overrun acknowledged
(42_receive.md R204 to R207). -/
theorem drainMessage_of_readFrame {s t : State} {f : Frame} (hframe : readFrame s = .going f t)
    (hheld : t.answerAt (t.accesses + 0) = .held) (hrelease : t.answerAt (t.accesses + 1) ≠ .noresp)
    (hack : t.status.dataOverrun = true → t.answerAt (t.accesses + 2) ≠ .noresp) :
    ∃ u, drainMessage s = .going (some f) u ∧
      u.status.msgWaiting = decide (1 < (t.controller.messageCount &&& t.params.rmcMask).toNat) := by
  have hquiet : readsQuietly 29 := ⟨by decide, by decide, by decide⟩
  obtain ⟨v, hrmc, hone⟩ := regRead_of_held (v := t.controller.messageCount) hheld hquiet
    fun _ => rfl
  have hwrite : v.answerAt v.accesses ≠ .noresp := by
    have := hone.answerAt 0
    rw [Nat.add_zero] at this
    exact this ▸ hrelease
  have hnext : v.answerAt (v.accesses + 1) = t.answerAt (t.accesses + 2) := hone.answerAt 1
  obtain ⟨w, hdone, hwaiting⟩ := acknowledgeOverrun_going
    (s := (v.afterWrite 1 0x04).setMsgWaiting ((v.afterWrite 1 0x04).moreMessages t.controller.messageCount))
    fun hoverrun => hnext ▸ hack (hone.status ▸ hoverrun)
  refine ⟨w, ?_, hwaiting.trans ?_⟩
  · simp only [drainMessage, hframe, hrmc, regWrite_of_responds hwrite, hdone, Access.andThen_going]
  · exact congrArg (fun p : Config.Params => decide (1 < (t.controller.messageCount &&& p.rmcMask).toNat)) hone.params

/-- Settles O24: SR shows a message, the drain reads it from the map, and the counter decides what still waits. -/
theorem tryReceiveReturnsTheOldestMessage : Obligations.TryReceiveReturnsTheOldestMessage := by
  unfold Obligations.TryReceiveReturnsTheOldestMessage
  intro s img hfault hmode hheld hresponds _ hcount hshows
  have hsr : s.controller.statusRegister.getLsbD 0 = true := by
    rw [s.controller.statusRegister_getLsbD.1, decide_eq_true hcount]
  have hquiet : readsQuietly 2 := ⟨by decide, by decide, by decide⟩
  obtain ⟨t, hstatus, hone⟩ := regRead_of_held (s := s.select) (v := s.controller.statusRegister)
    (hheld 0 (by omega)) hquiet fun _ => rfl
  have hstart (k : Nat) : t.answerAt (t.accesses + k) = s.answerAt (s.accesses + (1 + k)) := hone.answerAt k
  obtain ⟨u, hframe, hreads⟩ := readFrame_of_held (s := t) (img := img)
    (fun k hk => by rw [hstart]; exact hheld _ (by omega))
    (fun free k hk => by rw [hone.controller]; exact hshows free k hk)
  have hlater (k : Nat) : u.answerAt (u.accesses + k) =
      s.answerAt (s.accesses + (1 + (imageLength (imageByte img 0) + k))) := by rw [hreads.answerAt, hstart]
  obtain ⟨v, hdrain, hwaiting⟩ := drainMessage_of_readFrame hframe (by rw [hlater]; exact hheld _ (by omega))
    (by rw [hlater]; exact hresponds _ (by split <;> omega))
    (fun hoverrun => by
      have hoverrun' : s.status.dataOverrun = true := by
        rw [hreads.status, hone.status] at hoverrun
        exact hoverrun
      rw [hlater]
      exact hresponds _ (by rw [hoverrun']; simp; omega))
  have haccesses : receiveAccesses s.select = .going (some (decodeImage img)) v := by
    simp only [receiveAccesses, hstatus, Access.andThen_going, hsr, if_true, hdrain]
  have hexec : exec .tryReceive s =
      .next ((s.emitIfChanged (v.deselect.recordFrame (some (decodeImage img)))).respond .ok
        (.frame (some (decodeImage img)))) := by
    simp only [exec, execTryReceive, hfault, hmode, haccesses, Access.conclude_going]
    rfl
  refine ⟨_, hexec, rfl, ?_⟩
  rw [State.respond_status, State.emitIfChanged_status]
  refine hwaiting.trans ?_
  rw [hreads.controller, hreads.params, hone.controller, hone.params]
  rfl

end Sys2Proof.Machine
end

section
/-! Which interrupts the events at the controller raise (10_state.md R44, R45; logs 17, 24, 28). -/

namespace Sys2Proof.Machine

/-! ### Bus traffic wakes a sleeping controller -/

/-- The events that happen only on the bus, and so wake a sleeping controller (00_scope.md R18; log 17). -/
def EnvEvent.isTraffic : EnvEvent → Bool
  | .message _ | .busErrorCapture _ | .arbLostCapture _ => true
  | .register _ _ | .transmitEnd _ | .errorCounters _ _ _ | .wakeUp | .hardwareReset => false

/-- Off the bus there is no traffic. -/
theorem Controller.onEvent_off_bus {c : Controller} (h : c.onBus = false) (p : Config.Params) (free : Nat → Byte)
    {e : EnvEvent} (he : e.isTraffic = true) : c.onEvent p free e = c := by
  cases e with
  | message | busErrorCapture | arbLostCapture => simp only [Controller.onEvent, h, Bool.false_eq_true, if_false]
  | register | transmitEnd | errorCounters | wakeUp | hardwareReset => cases he

/-- Bus traffic wakes the controller first. -/
theorem Controller.onEvent_awake {c : Controller} (h : c.regs.wf = true) (p : Config.Params) (free : Nat → Byte)
    {e : EnvEvent} (he : e.isTraffic = true) (hbus : c.onBus = true) :
    c.onEvent p free e = c.awake.onEvent p free e := by
  obtain ⟨-, -, -, -, -, hawake, honbus⟩ := Controller.awake_spec h
  have hstill : c.awake.awake = c.awake := Controller.awake_of_awake hawake
  cases e with
  | message | busErrorCapture | arbLostCapture => simp only [Controller.onEvent, honbus, hbus, hstill, if_true]
  | register | transmitEnd | errorCounters | wakeUp | hardwareReset => cases he

/-! ### Bits of IR are raised by their causes (10_state.md R44, R45) -/

/-- From `c` to `d` exactly these interrupts were raised, those of them that IER enables; IER is as before. -/
def Controller.Raised (c d : Controller) (bits : Byte) : Prop :=
  d.cell 0 3 = c.cell 0 3 ||| (bits &&& c.cell 0 4) ∧ d.cell 0 4 = c.cell 0 4

/-- From `c` to `d` some interrupts were raised, TI only with no request pending at the end (log 24). -/
def Controller.RaisedByCauses (c d : Controller) : Prop :=
  ∃ bits, c.Raised d bits ∧ (bits.getLsbD 1 = true → d.txPending = false)

theorem Controller.Raised.byCauses {c d : Controller} {bits : Byte} (h : c.Raised d bits)
    (hti : bits.getLsbD 1 = false) : c.RaisedByCauses d := ⟨bits, h, fun hset => absurd hset (by rw [hti]; nofun)⟩

theorem Controller.raisedByCauses_refl (c : Controller) : c.RaisedByCauses c :=
  Controller.Raised.byCauses (bits := 0#8) ⟨by simp, rfl⟩ rfl

/-- Interrupts other than TI, and then more. -/
theorem Controller.Raised.then {c d e : Controller} {bits : Byte} (h : c.Raised d bits) (hti : bits.getLsbD 1 = false)
    (g : d.RaisedByCauses e) : c.RaisedByCauses e := by
  obtain ⟨bits', hg, hreleased⟩ := g
  refine ⟨bits ||| bits', ⟨?_, hg.2.trans h.2⟩, fun hset => hreleased ?_⟩
  · rw [hg.1, h.1, h.2, BitVec.or_assoc, BitVec.and_comm bits, BitVec.and_comm bits', ← BitVec.and_or_distrib_left,
      BitVec.and_comm]
  · rwa [BitVec.getLsbD_or, hti, Bool.false_or] at hset

section
variable {c : Controller} (h : c.regs.wf = true)
include h

theorem Controller.awake_raised : c.Raised c.awake (if c.isSleeping then 0x10#8 else 0x00#8) := by
  obtain ⟨-, -, hir, -, hread, -⟩ := Controller.awake_spec h
  exact ⟨hir, Controller.cell_congr (hread 4 (by decide) (by decide)) 0⟩

/-- A message raises RI, or DOI where it is lost. -/
theorem Controller.receive_raised (img : Image) : ∃ bits, c.Raised (c.receive img) bits ∧ bits.getLsbD 1 = false := by
  obtain ⟨-, e⟩ | ⟨-, e⟩ := c.receive_cases img
  · obtain ⟨-, -, hir, -, hread⟩ := Controller.enqueue_spec h img
    rw [e]
    exact ⟨0x01#8, ⟨hir, Controller.cell_congr (hread 4 (by decide) fun k _ => by omega) 0⟩, rfl⟩
  · obtain ⟨-, -, hir, -, hread⟩ := Controller.loseMessage_spec h
    rw [e]
    exact ⟨0x08#8, ⟨hir, Controller.cell_congr (hread 4 (by decide) (by decide)) 0⟩, rfl⟩

theorem Controller.captureBusError_raised (v : Byte) : c.Raised (c.captureBusError v) 0x80#8 := by
  obtain ⟨-, -, hir, -, hread⟩ := Controller.captureBusError_spec h v
  exact ⟨hir, Controller.cell_congr (hread 4 (by decide) (by decide)) 0⟩

theorem Controller.captureArbLost_raised (v : Byte) : c.Raised (c.captureArbLost v) 0x40#8 := by
  obtain ⟨-, -, hir, -, hread⟩ := Controller.captureArbLost_spec h v
  exact ⟨hir, Controller.cell_congr (hread 4 (by decide) (by decide)) 0⟩

/-- The end of a transmission raises TI where it releases the buffer. -/
theorem Controller.releaseTransmitBuffer_raised (done : Bool) : c.RaisedByCauses (c.releaseTransmitBuffer done) := by
  obtain ⟨-, heq, -, hir, hread⟩ := Controller.releaseTransmitBuffer_spec h done
  have hier : (c.releaseTransmitBuffer done).cell 0 4 = c.cell 0 4 :=
    Controller.cell_congr (hread 4 (by decide) (by decide)) 0
  cases hlatch : c.latch.any requestsTransmission with
  | true =>
    rw [hlatch] at hir
    exact Controller.Raised.byCauses (bits := 0#8) ⟨by simpa using hir, hier⟩ rfl
  | false =>
    rw [hlatch] at hir
    refine ⟨0x02#8, ⟨hir, hier⟩, fun _ => ?_⟩
    rw [heq]
    exact hlatch

theorem Controller.attemptFails_raised : c.RaisedByCauses c.attemptFails := by
  obtain ⟨-, -, -, -, e⟩ | e := c.attemptFails_cases
  · rw [e]; exact Controller.releaseTransmitBuffer_raised h false
  · rw [e]; exact c.raisedByCauses_refl

theorem Controller.endTransmission_raised (free : Nat → Byte) (done : Bool) :
    c.RaisedByCauses (c.endTransmission free done) := by
  obtain ⟨-, e⟩ | ⟨r, -, -, e⟩ := c.endTransmission_cases free done
  · rw [e]; exact c.raisedByCauses_refl
  · rw [e]
    split
    · obtain ⟨bits, hraised, hti⟩ := Controller.receive_raised h (c.selfReceived free)
      exact hraised.then hti (Controller.releaseTransmitBuffer_raised (Controller.receive_wf h _) done)
    · exact Controller.releaseTransmitBuffer_raised h done

/-- What follows a wake-up. -/
theorem Controller.RaisedByCauses.of_awake {d : Controller} (g : c.awake.RaisedByCauses d) : c.RaisedByCauses d :=
  (Controller.awake_raised h).then (by split <;> rfl) g

end

/-- New counters or a new SR raise EI and EPI alone. -/
theorem Controller.raiseErrorChanges_raised {c d : Controller} (h : d.regs.wf = true) (h3 : d.cell 0 3 = c.cell 0 3)
    (h4 : d.cell 0 4 = c.cell 0 4) (limit : Nat) :
    ∃ bits, c.Raised (c.raiseErrorChanges d limit) bits ∧ bits.getLsbD 1 = false := by
  obtain ⟨-, -, hread, hir, -⟩ := Controller.raiseErrorChanges_spec c h limit
  refine ⟨(if d.errorStatus = c.errorStatus ∧ d.busStatus = c.busStatus then 0x00#8 else 0x04#8) |||
      (if d.isPassive limit = c.isPassive limit then 0x00#8 else 0x20#8), ⟨?_, ?_⟩, ?_⟩
  · rw [hir, h3, h4, BitVec.or_assoc, BitVec.and_comm _ (c.cell 0 4), BitVec.and_comm _ (c.cell 0 4),
      ← BitVec.and_or_distrib_left, BitVec.and_comm]
  · rw [Controller.cell_congr (hread 4 (by decide)) 0, h4]
  · split <;> split <;> rfl

/-- A register other than IR takes a value: at most EI and EPI are raised. IER itself may change. -/
theorem Controller.setRegister_ir {c : Controller} (h : c.regs.wf = true) (limit : Nat) {a : Nat} (ha : a < 128)
    (h3 : a ≠ 3) (v : Byte) : ∃ bits : Byte, (c.setRegister limit a v).cell 0 3 = c.cell 0 3 ||| (bits &&& c.cell 0 4) ∧
      bits.getLsbD 1 = false := by
  have hkept : (c.setCell a v).cell 0 3 = c.cell 0 3 := by rw [Controller.setCell_cell h, if_neg h3.symm]
  unfold Controller.setRegister
  split
  · have hier : (c.setCell a v).cell 0 4 = c.cell 0 4 := by rw [Controller.setCell_cell h, if_neg (by omega)]
    obtain ⟨bits, hraised, hti⟩ := Controller.raiseErrorChanges_raised (Controller.setCell_wf h ha v) hkept hier limit
    exact ⟨bits, hraised.1, hti⟩
  · exact ⟨0#8, by simpa using hkept, rfl⟩

/-- New counters and bus status, cell by cell, before the interrupts they raise. -/
def Controller.withCounters (c : Controller) (rxerr txerr : Byte) (busOff : Bool) : Controller :=
  ((c.setCell 14 rxerr).setCell 15 txerr).setCell 2
    (if busOff then (c.cell 0 2) ||| 0x80#8 else (c.cell 0 2) &&& 0x7F#8)

theorem Controller.setErrorCounters_eq (c : Controller) (limit : Nat) (rxerr txerr : Byte) (busOff : Bool) :
    c.setErrorCounters limit rxerr txerr busOff = c.raiseErrorChanges (c.withCounters rxerr txerr busOff) limit := rfl

theorem Controller.withCounters_spec {c : Controller} (h : c.regs.wf = true) (rxerr txerr : Byte) (busOff : Bool) :
    (c.withCounters rxerr txerr busOff).regs.wf = true ∧
    c.withCounters rxerr txerr busOff = { c with regs := (c.withCounters rxerr txerr busOff).regs } ∧
    (c.withCounters rxerr txerr busOff).regs.read 14 = some rxerr ∧
    (c.withCounters rxerr txerr busOff).regs.read 15 = some txerr ∧
    (c.withCounters rxerr txerr busOff).cell 0 2 =
      (if busOff then c.cell 0 2 ||| 0x80#8 else c.cell 0 2 &&& 0x7F#8) ∧
    (∀ a, a ≠ 2 → a ≠ 14 → a ≠ 15 → (c.withCounters rxerr txerr busOff).regs.read a = c.regs.read a) := by
  have w14 := Controller.setCell_wf h (b := 14) (by decide) rxerr
  have w15 := Controller.setCell_wf w14 (b := 15) (by decide) txerr
  unfold Controller.withCounters
  refine ⟨Controller.setCell_wf w15 (by decide) _, rfl, ?_, ?_, ?_, fun a h2 h14 h15 => ?_⟩
  · rw [Controller.setCell_read w15, if_neg (by decide), Controller.setCell_read w14, if_neg (by decide),
      Controller.setCell_read h, if_pos rfl, registerMask_full (by decide) (by decide)]
  · rw [Controller.setCell_read w15, if_neg (by decide), Controller.setCell_read w14, if_pos rfl,
      registerMask_full (by decide) (by decide)]
  · rw [Controller.setCell_cell w15, if_pos rfl, registerMask_full (by decide) (by decide)]
  · rw [Controller.setCell_read w15, if_neg h2, Controller.setCell_read w14, if_neg h15, Controller.setCell_read h,
      if_neg h14]

/-- Whatever happens, a bit of IR that turns to 1 was caused and enabled, and TI is caused only with no request pending
at the end (70_reset_and_hazards.md R352; logs 24, 28). -/
theorem Controller.onEvent_ir {c : Controller} (h : c.regs.wf = true) (p : Config.Params) (free : Nat → Byte)
    (e : EnvEvent) : ∃ bits : Byte,
      (∀ j, ((c.onEvent p free e).cell 0 3).getLsbD j = true →
        (c.cell 0 3).getLsbD j = true ∨ (bits.getLsbD j = true ∧ (c.cell 0 4).getLsbD j = true)) ∧
      (bits.getLsbD 1 = true → (c.onEvent p free e).txPending = false) := by
  have hbits {d : Controller} {bits : Byte} (hir : d.cell 0 3 = c.cell 0 3 ||| (bits &&& c.cell 0 4)) (j : Nat)
      (hset : (d.cell 0 3).getLsbD j = true) :
      (c.cell 0 3).getLsbD j = true ∨ (bits.getLsbD j = true ∧ (c.cell 0 4).getLsbD j = true) := by
    simpa only [hir, BitVec.getLsbD_or, BitVec.getLsbD_and, Bool.or_eq_true, Bool.and_eq_true] using hset
  have hcauses {d : Controller} (hd : c.RaisedByCauses d) : ∃ bits : Byte, (∀ j, (d.cell 0 3).getLsbD j = true →
      (c.cell 0 3).getLsbD j = true ∨ (bits.getLsbD j = true ∧ (c.cell 0 4).getLsbD j = true)) ∧
      (bits.getLsbD 1 = true → d.txPending = false) := by
    obtain ⟨bits, hraised, hti⟩ := hd
    exact ⟨bits, hbits hraised.1, hti⟩
  have ha := (Controller.awake_spec h).1
  cases e with
  | register off v =>
    simp only [Controller.onEvent]
    split
    · rename_i hstored
      obtain ⟨bits, hir, hti⟩ := Controller.setRegister_ir h p.passiveLimit off.isLt hstored.2 v
      exact ⟨bits, hbits hir, fun hset => absurd hset (by rw [hti]; nofun)⟩
    · exact hcauses c.raisedByCauses_refl
  | message img =>
    refine hcauses ?_
    simp only [Controller.onEvent]
    split
    · obtain ⟨bits, hraised, hti⟩ := Controller.receive_raised ha img
      exact Controller.RaisedByCauses.of_awake h (hraised.byCauses hti)
    · exact c.raisedByCauses_refl
  | transmitEnd done => exact hcauses (Controller.endTransmission_raised h free done)
  | busErrorCapture v =>
    refine hcauses ?_
    have hcaptured := Controller.captureBusError_raised ha v
    simp only [Controller.onEvent]
    split
    · refine Controller.RaisedByCauses.of_awake h ?_
      split
      · exact hcaptured.byCauses rfl
      · exact hcaptured.then rfl (Controller.attemptFails_raised (Controller.captureBusError_spec ha v).1)
    · exact c.raisedByCauses_refl
  | arbLostCapture v =>
    refine hcauses ?_
    simp only [Controller.onEvent]
    split
    · exact Controller.RaisedByCauses.of_awake h ((Controller.captureArbLost_raised ha v).then rfl
        (Controller.attemptFails_raised (Controller.captureArbLost_spec ha v).1))
    · exact c.raisedByCauses_refl
  | errorCounters rxerr txerr busOff =>
    obtain ⟨hwf, -, -, -, -, hread⟩ := Controller.withCounters_spec h rxerr txerr busOff
    obtain ⟨bits, hraised, hti⟩ := Controller.raiseErrorChanges_raised (c := c) hwf
      (Controller.cell_congr (hread 3 (by decide) (by decide) (by decide)) 0)
      (Controller.cell_congr (hread 4 (by decide) (by decide) (by decide)) 0) p.passiveLimit
    exact hcauses (hraised.byCauses hti)
  | wakeUp =>
    exact hcauses ((Controller.awake_raised h).byCauses (by split <;> rfl))
  | hardwareReset =>
    have hzero : (c.onEvent p free .hardwareReset).cell 0 3 = 0#8 := rfl
    exact ⟨0#8, fun j hset => absurd hset (by rw [hzero, BitVec.getLsbD_zero]; nofun), nofun⟩

end Sys2Proof.Machine
end

section
/-! The error, capture and wake-up events at the controller (10_state.md R43 to R51). -/

namespace Sys2Proof.Machine

/-! ### New counters and a new SR (10_state.md R43, R44) -/

/-- A masked bit that lies outside a second mask is gone. -/
theorem and_and_of_disjoint {m k : Byte} (h : m &&& k = 0#8) (y : Byte) : m &&& y &&& k = 0#8 := by
  rw [BitVec.and_comm m, BitVec.and_assoc, h, BitVec.and_zero]

/-- Two interrupts, bits 2 and 5, each raised unless its condition holds. -/
theorem bits_of_raised_pair (x y : Byte) (p q : Prop) [Decidable p] [Decidable q] :
    let z := x ||| ((if p then 0x00#8 else 0x04#8) &&& y) ||| ((if q then 0x00#8 else 0x20#8) &&& y)
    (z.getLsbD 2 = true ↔ x.getLsbD 2 = true ∨ (y.getLsbD 2 = true ∧ ¬ p)) ∧
    (z.getLsbD 5 = true ↔ x.getLsbD 5 = true ∨ (y.getLsbD 5 = true ∧ ¬ q)) ∧ z &&& 0xDB#8 = x &&& 0xDB#8 := by
  intro z
  have hei : (0x04#8 &&& y) &&& 0xDB#8 = 0#8 := and_and_of_disjoint rfl y
  have hepi : (0x20#8 &&& y) &&& 0xDB#8 = 0#8 := and_and_of_disjoint rfl y
  by_cases hp : p <;> by_cases hq : q <;> simp [z, hp, hq, BitVec.and_or_distrib_right, hei, hepi]

/-- EI and EPI are raised exactly by a change of what they report (10_state.md R44). -/
theorem Controller.raiseErrorChanges_raises {c d : Controller} (h : d.regs.wf = true) (h3 : d.cell 0 3 = c.cell 0 3)
    (h4 : d.cell 0 4 = c.cell 0 4) (limit : Nat) : c.RaisesErrorChanges limit (c.raiseErrorChanges d limit) := by
  obtain ⟨-, -, hread, hir, hsr⟩ := Controller.raiseErrorChanges_spec c h limit
  have hcell (a : Nat) (ha : a ≠ 3) : (c.raiseErrorChanges d limit).cell 0 a = d.cell 0 a :=
    Controller.cell_congr (hread a ha) 0
  have hpassive : (c.raiseErrorChanges d limit).isPassive limit = d.isPassive limit := by
    rw [Controller.isPassive, Controller.busStatus, hcell 2 (by decide), hcell 14 (by decide), hcell 15 (by decide)]
    rfl
  obtain ⟨-, -, -, -, -, -, hes, hbs⟩ := c.statusRegister_getLsbD
  obtain ⟨-, -, -, -, -, -, hes', hbs'⟩ := d.statusRegister_getLsbD
  obtain ⟨hei, hepi, hother⟩ := bits_of_raised_pair (c.cell 0 3) (c.cell 0 4)
    (d.errorStatus = c.errorStatus ∧ d.busStatus = c.busStatus) (d.isPassive limit = c.isPassive limit)
  rw [h3, h4] at hir
  unfold Controller.RaisesErrorChanges
  rw [Controller.ErrorPassive_iff, Controller.ErrorPassive_iff, hpassive, hsr, hes, hbs, hes', hbs', hir,
    ← Bool.eq_iff_iff, ← not_and_or]
  exact ⟨hei, hepi, hother⟩

/-- The bits 4:0 of SR that new counters leave: they hang on bits 6:0 of the cell, the mode and the transmission. -/
theorem Controller.statusRegister_low {c d : Controller} (heq : d = { c with regs := d.regs })
    (hbits : ∀ j < 7, (d.cell 0 2).getLsbD j = (c.cell 0 2).getLsbD j) :
    d.statusRegister &&& 0x1F#8 = c.statusRegister &&& 0x1F#8 := by
  have hpending : d.txPending = c.txPending := by rw [heq]; rfl
  obtain ⟨c0, c1, c2, c3, c4, -⟩ := c.statusRegister_getLsbD
  obtain ⟨d0, d1, d2, d3, d4, -⟩ := d.statusRegister_getLsbD
  have hlow : ∀ j < 5, d.statusRegister.getLsbD j = c.statusRegister.getLsbD j := by
    intro j hj
    interval_cases j
    · rw [d0, c0, heq]
    · rw [d1, c1, hbits 1 (by decide)]
    · rw [d2, c2, hpending]
    · rw [d3, c3, Controller.transmissionComplete, hpending, hbits 3 (by decide)]; rfl
    · rw [d4, c4, hbits 4 (by decide)]
  have hmask : ∀ j < 8, ¬ j < 5 → (0x1F#8).getLsbD j = false := by decide
  refine BitVec.eq_of_getLsbD_eq fun j hj => ?_
  rw [BitVec.getLsbD_and, BitVec.getLsbD_and]
  by_cases h : j < 5
  · rw [hlow j h]
  · rw [hmask j hj h, Bool.and_false, Bool.and_false]

/-- Bus status goes into bit 7 of the cell of SR alone. -/
theorem busOff_bits (x : Byte) (busOff : Bool) :
    (if busOff then x ||| 0x80#8 else x &&& 0x7F#8).getLsbD 7 = busOff ∧
    ∀ j < 7, (if busOff then x ||| 0x80#8 else x &&& 0x7F#8).getLsbD j = x.getLsbD j := by
  have hset : ∀ j < 7, (0x80#8).getLsbD j = false := by decide
  have hclear : ∀ j < 7, (0x7F#8).getLsbD j = true := by decide
  cases busOff
  · refine ⟨(BitVec.getLsbD_and).trans (Bool.and_false _), fun j hj => ?_⟩
    exact (BitVec.getLsbD_and).trans (by rw [hclear j hj, Bool.and_true])
  · refine ⟨(BitVec.getLsbD_or).trans (Bool.or_true _), fun j hj => ?_⟩
    exact (BitVec.getLsbD_or).trans (by rw [hset j hj, Bool.or_false])

/-- New counters and bus status: what they store, what stays, and the interrupts of the change. -/
theorem Controller.setErrorCounters_spec {c : Controller} (h : c.regs.wf = true) (limit : Nat) (rxerr txerr : Byte)
    (busOff : Bool) :
    let d := c.setErrorCounters limit rxerr txerr busOff
    c.ChangesOnly d [2, 3, 14, 15] ∧ d.regs.read 14 = some rxerr ∧ d.regs.read 15 = some txerr ∧
    d.cell 0 2 = (if busOff then c.cell 0 2 ||| 0x80#8 else c.cell 0 2 &&& 0x7F#8) ∧
    d.statusRegister.getLsbD 7 = busOff ∧ d.statusRegister &&& 0x1F#8 = c.statusRegister &&& 0x1F#8 ∧
    c.RaisesErrorChanges limit d := by
  rw [Controller.setErrorCounters_eq]
  intro d
  obtain ⟨hwf, heq, h14, h15, h2, hother⟩ := Controller.withCounters_spec h rxerr txerr busOff
  obtain ⟨-, heq', hread, -, -⟩ := Controller.raiseErrorChanges_spec c hwf limit
  obtain ⟨h7, hlow⟩ := busOff_bits (c.cell 0 2) busOff
  have hd : d = { c with regs := d.regs } := heq'.trans (by rw [heq]; rfl)
  have hcell : d.cell 0 2 = (if busOff then c.cell 0 2 ||| 0x80#8 else c.cell 0 2 &&& 0x7F#8) :=
    (Controller.cell_congr (hread 2 (by decide)) 0).trans h2
  refine ⟨⟨hd, fun a ha => ?_⟩, (hread 14 (by decide)).trans h14, (hread 15 (by decide)).trans h15, hcell, ?_, ?_, ?_⟩
  · simp only [List.mem_cons, List.not_mem_nil, or_false, not_or] at ha
    obtain ⟨ha2, ha3, ha14, ha15⟩ := ha
    exact (hread a ha3).trans (hother a ha2 ha14 ha15)
  · obtain ⟨-, -, -, -, -, -, -, hbs⟩ := d.statusRegister_getLsbD
    rw [hbs, Controller.busStatus, hcell, h7]
  · exact Controller.statusRegister_low hd fun j hj => by rw [hcell, hlow j hj]
  · exact Controller.raiseErrorChanges_raises hwf
      (Controller.cell_congr (hother 3 (by decide) (by decide) (by decide)) 0)
      (Controller.cell_congr (hother 4 (by decide) (by decide) (by decide)) 0) limit

/-! ### A register takes a value -/

theorem Controller.onEvent_register {c : Controller} {off : Offset} (hstored : isStored off.toNat = true)
    (h3 : off.toNat ≠ 3) (p : Config.Params) (free : Nat → Byte) (v : Byte) :
    c.onEvent p free (.register off v) = c.setRegister p.passiveLimit off.toNat v := if_pos ⟨hstored, h3⟩

/-- SR, EWLR, RXERR and TXERR store the value and raise what their change causes (10_state.md R43, R44). -/
theorem Controller.setRegister_error {c : Controller} (h : c.regs.wf = true) (limit : Nat) {a : Nat}
    (ha : a ∈ [2, 13, 14, 15]) (v : Byte) :
    c.ChangesOnly (c.setRegister limit a v) [a, 3] ∧ (c.setRegister limit a v).regs.read a = some v ∧
      c.RaisesErrorChanges limit (c.setRegister limit a v) := by
  have hmem : a = 2 ∨ a = 13 ∨ a = 14 ∨ a = 15 := by simpa using ha
  have hlt : a < 128 := by omega
  obtain ⟨-, heq, hread, -⟩ := Controller.setRegister_spec h limit hlt v
  have hset : c.setRegister limit a v = c.raiseErrorChanges (c.setCell a v) limit := if_pos hmem
  refine ⟨⟨heq, fun b hb => ?_⟩, ?_, ?_⟩
  · simp only [List.mem_cons, List.not_mem_nil, or_false, not_or] at hb
    rw [hread b hb.2, if_neg hb.1]
  · rw [hread a (by omega), if_pos rfl, registerMask_full (by omega) (by omega)]
  · rw [hset]
    exact Controller.raiseErrorChanges_raises (Controller.setCell_wf h hlt v)
      (by rw [Controller.setCell_cell h, if_neg (by omega)])
      (by rw [Controller.setCell_cell h, if_neg (by omega)]) limit

/-- In reset mode software writes EWLR, RXERR and TXERR (10_state.md R40). -/
theorem Controller.afterWrite_error {c : Controller} (hmode : c.inResetMode = true) (limit : Nat) {off : Offset}
    (hoff : off.toNat ∈ [13, 14, 15]) (v : Byte) : c.afterWrite limit off v = c.setRegister limit off.toNat v := by
  have hmem : off.toNat = 13 ∨ off.toNat = 14 ∨ off.toNat = 15 := by simpa using hoff
  have hcell : c.writeCell off = some off.toNat := by
    obtain e | e | e := hmem <;> simp [Controller.writeCell, writableAlways, writableInReset, hmode, e]
  rw [Controller.afterWrite, if_neg (by omega), hcell]

/-- Any other stored register takes the value and raises nothing. -/
theorem Controller.setRegister_plain {c : Controller} (h : c.regs.wf = true) (limit : Nat) {a : Nat}
    (ha : a ∉ [2, 3, 13, 14, 15]) (v : Byte) :
    c.ChangesOnly (c.setRegister limit a v) [a] ∧
      (c.setRegister limit a v).regs.read a = some (if a = 0 ∨ a = 11 then v &&& 0x1F#8 else v) := by
  simp only [List.mem_cons, List.not_mem_nil, or_false, not_or] at ha
  obtain ⟨h2, h3, h13, h14, h15⟩ := ha
  have hset : c.setRegister limit a v = c.setCell a v := if_neg (by omega)
  rw [hset]
  refine ⟨⟨rfl, fun b hb => ?_⟩, ?_⟩
  · rw [Controller.setCell_read h, if_neg (by simpa using hb)]
  · rw [Controller.setCell_read h, if_pos rfl]
    split
    · rename_i hmask
      rw [registerMask, if_pos hmask]
      rfl
    · rename_i hmask
      rw [registerMask_full (by omega) (by omega)]

/-! ### Captures and the wake-up -/

theorem Controller.attemptFails_of_idle {c : Controller} (h : c.inFlight = none) : c.attemptFails = c := by
  simp only [Controller.attemptFails, h]

/-- A bus error that ends no transmission (10_state.md R49). -/
theorem Controller.onEvent_busError {c : Controller} (h : c.regs.wf = true) (hbus : c.onBus = true)
    (hawake : c.isSleeping = false) (p : Config.Params) (free : Nat → Byte) {v : Byte}
    (hidle : c.inFlight = none ∨ v.getLsbD 5 = true) :
    c.onEvent p free (.busErrorCapture v) = c.captureBusError v := by
  simp only [Controller.onEvent, hbus, if_true, Controller.awake_of_awake hawake]
  split
  · rfl
  · rename_i hdir
    refine Controller.attemptFails_of_idle ?_
    rw [(Controller.captureBusError_spec h v).2.1]
    exact hidle.resolve_right hdir

/-- An arbitration loss with no transmission in progress (10_state.md R48). -/
theorem Controller.onEvent_arbLost {c : Controller} (h : c.regs.wf = true) (hbus : c.onBus = true)
    (hawake : c.isSleeping = false) (p : Config.Params) (free : Nat → Byte) (v : Byte) (hidle : c.inFlight = none) :
    c.onEvent p free (.arbLostCapture v) = c.captureArbLost v := by
  simp only [Controller.onEvent, hbus, if_true, Controller.awake_of_awake hawake]
  refine Controller.attemptFails_of_idle ?_
  rw [(Controller.captureArbLost_spec h v).2.1]
  exact hidle

/-- The wake-up event: WUI and MOD.SM where the controller slept, nothing otherwise (10_state.md R44). -/
theorem Controller.awake_changes {c : Controller} (h : c.regs.wf = true) :
    if (c.cell 0 0).getLsbD 4 then
      c.ChangesOnly c.awake [0, 3] ∧ c.awake.cell 0 3 = c.cell 0 3 ||| (0x10#8 &&& c.cell 0 4) ∧
        c.awake.cell 0 0 = c.cell 0 0 &&& 0x0F#8
    else c.awake = c := by
  obtain ⟨-, heq, hir, hmod, hread, -⟩ := Controller.awake_spec h
  split
  · rename_i hs
    have hsleeping : c.isSleeping = true := hs
    rw [hsleeping] at hir hmod
    refine ⟨⟨heq, fun a ha => ?_⟩, hir, hmod⟩
    simp only [List.mem_cons, List.not_mem_nil, or_false, not_or] at ha
    exact hread a ha.1 ha.2
  · rename_i hs
    exact Controller.awake_of_awake (eq_false_of_ne_true hs)

/-- Settles O47: each event by its lemma above. -/
theorem errorEventsRaiseTheirInterrupts : Obligations.ErrorEventsRaiseTheirInterrupts := by
  unfold Obligations.ErrorEventsRaiseTheirInterrupts
  intro c p free hwf
  refine ⟨fun e j hier hir => ?_, fun rxerr txerr busOff => Controller.setErrorCounters_spec hwf _ rxerr txerr busOff,
    fun off v hoff => ?_, fun off v hstored hoff => ?_, fun v hbus => ?_, fun v hbus _ => ?_,
    fun v hbus hawake hidle => ?_, fun v hbus hawake hidle => ?_, Controller.awake_changes hwf⟩
  · obtain ⟨bits, hraised, -⟩ := Controller.onEvent_ir hwf p free e
    by_contra hset
    have hcause := hraised j (eq_true_of_ne_false hset)
    rw [hir, hier] at hcause
    simp at hcause
  · have hmem : off.toNat = 2 ∨ off.toNat = 13 ∨ off.toNat = 14 ∨ off.toNat = 15 := by simpa using hoff
    have hstored : isStored off.toNat = true := by
      obtain e | e | e | e := hmem <;> rw [e] <;> rfl
    obtain ⟨honly, hread, hraises⟩ := Controller.setRegister_error hwf p.passiveLimit hoff v
    rw [Controller.onEvent_register hstored (by omega)]
    refine ⟨honly, hread, hraises, fun h2 hmode => Controller.afterWrite_error hmode _ ?_ v⟩
    simpa [h2] using hmem
  · rw [Controller.onEvent_register hstored (by rintro h3; simp [h3] at hoff)]
    exact Controller.setRegister_plain hwf _ hoff v
  · have hoffBus : c.onBus = false := eq_false_of_ne_true fun h => hbus (c.OnBus_iff.mpr h)
    exact ⟨Controller.onEvent_off_bus hoffBus p free rfl, Controller.onEvent_off_bus hoffBus p free rfl⟩
  · have honBus := c.OnBus_iff.mp hbus
    exact ⟨Controller.onEvent_awake hwf p free rfl honBus, Controller.onEvent_awake hwf p free rfl honBus⟩
  · obtain ⟨-, heq, hir, hecc, hread⟩ := Controller.captureBusError_spec hwf v
    rw [Controller.onEvent_busError hwf (c.OnBus_iff.mp hbus) hawake p free hidle]
    refine ⟨⟨heq, fun a ha => ?_⟩, hir, hecc⟩
    simp only [List.mem_cons, List.not_mem_nil, or_false, not_or] at ha
    exact hread a ha.1 ha.2
  · obtain ⟨-, heq, hir, halc, hread⟩ := Controller.captureArbLost_spec hwf v
    rw [Controller.onEvent_arbLost hwf (c.OnBus_iff.mp hbus) hawake p free v hidle]
    refine ⟨⟨heq, fun a ha => ?_⟩, hir, halc⟩
    simp only [List.mem_cons, List.not_mem_nil, or_false, not_or] at ha
    exact hread a ha.1 ha.2

end Sys2Proof.Machine
end

section
/-! The end of a transmission at the controller (10_state.md R32, R43, R44; 30_encoding.md R101; logs 13, 17, 24). -/

namespace Sys2Proof.Machine

/-! ### The buffer is released -/

/-- What the end of a transmission leaves: SR and IR change, and SR says that it is over (10_state.md R43, R44). -/
theorem Controller.releaseTransmitBuffer_status {c : Controller} (h : c.regs.wf = true) (done : Bool) :
    let d := c.releaseTransmitBuffer done
    { c with inFlight := none }.ChangesOnly d [2, 3] ∧ d.statusRegister.getLsbD 5 = false ∧
    (c.latch.any requestsTransmission = false → d.statusRegister.getLsbD 2 = true ∧
      d.statusRegister.getLsbD 3 = done ∧ d.cell 0 3 = c.cell 0 3 ||| (0x02#8 &&& c.cell 0 4)) ∧
    (c.latch.any requestsTransmission = true → d.statusRegister.getLsbD 2 = false ∧ d.cell 0 3 = c.cell 0 3) := by
  intro d
  obtain ⟨-, heq, hsr, hir, hread⟩ := Controller.releaseTransmitBuffer_spec h done
  obtain ⟨-, -, htbs, htcs, -, hts, -⟩ := d.statusRegister_getLsbD
  have hflight : d.inFlight = none := by rw [show d = _ from heq]
  have hpending : d.txPending = c.latch.any requestsTransmission := by rw [show d = _ from heq]; rfl
  have hbits (x : Byte) : ((x &&& 0xD7#8) ||| (if done then 0x08#8 else 0x00#8)).getLsbD 5 = false ∧
      ((x &&& 0xD7#8) ||| (if done then 0x08#8 else 0x00#8)).getLsbD 3 = done := by
    cases done <;> simp
  have hbit5 : (d.cell 0 2).getLsbD 5 = false := by rw [show d.cell 0 2 = _ from hsr]; exact (hbits _).1
  have hbit3 : (d.cell 0 2).getLsbD 3 = done := by rw [show d.cell 0 2 = _ from hsr]; exact (hbits _).2
  refine ⟨⟨heq, fun a ha => ?_⟩, ?_, fun hlatch => ⟨?_, ?_, ?_⟩, fun hlatch => ⟨?_, ?_⟩⟩
  · simp only [List.mem_cons, List.not_mem_nil, or_false, not_or] at ha
    exact hread a ha.1 ha.2
  · rw [hts, Controller.transmitting, hflight, hbit5, Bool.and_false]
    rfl
  · rw [htbs, hpending, hlatch]
    rfl
  · rw [htcs, Controller.transmissionComplete, hpending, hlatch, hbit3]
    exact Bool.and_true _
  · rw [hlatch] at hir
    exact hir
  · rw [htbs, hpending, hlatch]
    rfl
  · rw [hlatch] at hir
    exact hir

/-- Releasing the buffer forgets the transmission, whatever it was. -/
theorem Controller.releaseTransmitBuffer_withInFlight (c : Controller) (x : Option TxRequest) (done : Bool) :
    { c with inFlight := x }.releaseTransmitBuffer done = c.releaseTransmitBuffer done := rfl

/-! ### The event -/

theorem Controller.endTransmission_of_idle {c : Controller} (h : c.inFlight = none) (free : Nat → Byte) (done : Bool) :
    c.endTransmission free done = c := by
  simp only [Controller.endTransmission, h]

/-- Nothing completes where the controller cannot transmit (00_scope.md R18; 93_implementation_defined.md I24). -/
theorem Controller.endTransmission_of_mute {c : Controller} (h : c.mayTransmit = false) (free : Nat → Byte) :
    c.endTransmission free true = c := by
  obtain ⟨-, e⟩ | ⟨r, -, hmay, -⟩ := c.endTransmission_cases free true
  · exact e
  · rw [hmay rfl] at h
    cases h

/-- A transmission ends, no message delivered: given up, or completed and not for self-reception. -/
theorem Controller.endTransmission_plain {c : Controller} {r : TxRequest} (h : c.inFlight = some r)
    (free : Nat → Byte) {done : Bool} (hdone : done = true → c.mayTransmit = true ∧ r.selfReception = false) :
    c.endTransmission free done = c.releaseTransmitBuffer done := by
  cases done with
  | false => simp [Controller.endTransmission, h]
  | true =>
    obtain ⟨hmay, hself⟩ := hdone rfl
    simp [Controller.endTransmission, h, hmay, hself]

/-- A self-reception request completes: the message is delivered, then the buffer released. -/
theorem Controller.endTransmission_self {c : Controller} {r : TxRequest} (h : c.inFlight = some r)
    (hself : r.selfReception = true) (hmay : c.mayTransmit = true) (free : Nat → Byte) :
    c.endTransmission free true = (c.receive (c.selfReceived free)).releaseTransmitBuffer true := by
  simp [Controller.endTransmission, h, hmay, hself]

theorem Controller.mayTransmit_onBus {c : Controller} (h : c.mayTransmit = true) :
    c.onBus = true ∧ c.isSleeping = false := by
  simp only [Controller.mayTransmit, Bool.and_eq_true, Bool.not_eq_true'] at h
  exact ⟨h.1.1, h.2⟩

/-! ### The self-received message (00_scope.md R18; log 13) -/

/-- Bits that another byte stands in for, seen through a mask that leaves them out. -/
theorem masked_merge_xor (x y u m : Byte) (h : u &&& m = 0#8) : ((x &&& ~~~u ||| y &&& u) ^^^ x) &&& m = 0#8 := by
  refine BitVec.eq_of_getLsbD_eq fun j hj => ?_
  have hj' := congrArg (fun z : Byte => z.getLsbD j) h
  simp only [BitVec.getLsbD_and, BitVec.getLsbD_zero] at hj'
  simp only [BitVec.getLsbD_and, BitVec.getLsbD_xor, BitVec.getLsbD_or, BitVec.getLsbD_not, hj, decide_true,
    Bool.true_and, BitVec.getLsbD_zero]
  cases hu : u.getLsbD j with
  | true => simp [show m.getLsbD j = false by simpa [hu] using hj']
  | false => simp

theorem imageByte_ofFn (f : Fin 13 → Byte) {k : Nat} (hk : k ≤ 12) :
    imageByte (Vector.ofFn f) k = f ⟨k, by omega⟩ := by
  simp [imageByte, show k < 13 by omega]

/-- The self-received message is the transmit buffer, but for the bits the receive layout leaves unassigned. -/
theorem Controller.selfReceived_bytes (c : Controller) (free : Nat → Byte) {k : Nat} (hk : k ≤ 12) :
    (imageByte (c.selfReceived free) k ^^^ c.cell (free (96 + k)) (96 + k)) &&&
      (if k = 0 then 0xCF#8 else if (c.cell (free 96) 96).getLsbD 7 = false ∧ k = 2 then 0xE0#8 else
        if (c.cell (free 96) 96).getLsbD 7 = true ∧ k = 4 then 0xF8#8 else 0xFF#8) = 0x00#8 := by
  have hsent (j : Nat) (hj : j ≤ 12) : imageByte (c.txBuffer free) j = c.cell (free (96 + j)) (96 + j) :=
    imageByte_ofFn _ hj
  rw [Controller.selfReceived, imageByte_ofFn _ hk]
  simp only [hsent k hk, hsent 0 (Nat.zero_le _)]
  refine masked_merge_xor _ _ _ _ ?_
  generalize c.cell (free (96 + 0)) (96 + 0) = info
  unfold unassignedBits idLength rtrCopyBit
  cases hext : info.getLsbD 7 <;> interval_cases k <;> decide

/-- A message that arrives changes neither who is on the bus nor who can transmit. -/
theorem Controller.receive_bus {c : Controller} (h : c.regs.wf = true) (img : Image) :
    (c.receive img).onBus = c.onBus ∧ (c.receive img).mayTransmit = c.mayTransmit := by
  obtain ⟨-, e⟩ | ⟨-, e⟩ := c.receive_cases img
  · obtain ⟨-, -, -, -, hread⟩ := Controller.enqueue_spec h img
    rw [e]
    exact Controller.bus_congr (hread 0 (by decide) fun k _ => by omega)
      (congrArg (·.getLsbD 7) (Controller.cell_congr (hread 2 (by decide) fun k _ => by omega) 0))
  · obtain ⟨-, -, -, hsr, hread⟩ := Controller.loseMessage_spec h
    rw [e]
    refine Controller.bus_congr (hread 0 (by decide) (by decide)) ?_
    rw [hsr, BitVec.getLsbD_or]
    exact Bool.or_false _

/-- On the bus a message is received by the controller that it wakes. -/
theorem Controller.onEvent_message {c : Controller} (hbus : c.onBus = true) (p : Config.Params) (free : Nat → Byte)
    (img : Image) : c.onEvent p free (.message img) = c.awake.receive img := by
  simp only [Controller.onEvent, hbus, if_true]

/-- A completed self-reception is the arrival of the message, and then the end of a plain transmission. -/
theorem Controller.endTransmission_self_eq {c : Controller} (h : c.regs.wf = true) {r : TxRequest}
    (hflight : c.inFlight = some r) (hself : r.selfReception = true) (hmay : c.mayTransmit = true) (p : Config.Params)
    (free : Nat → Byte) :
    c.endTransmission free true =
      { c.onEvent p free (.message (c.selfReceived free)) with
        inFlight := some { r with selfReception := false } }.endTransmission free true := by
  obtain ⟨hbus, hawake⟩ := Controller.mayTransmit_onBus hmay
  have hmay' : ({ c.receive (c.selfReceived free) with
      inFlight := some { r with selfReception := false } } : Controller).mayTransmit = true :=
    (Controller.receive_bus h _).2.trans hmay
  rw [Controller.endTransmission_self hflight hself hmay, Controller.onEvent_message hbus,
    Controller.awake_of_awake hawake, Controller.endTransmission_plain rfl free fun _ => ⟨hmay', rfl⟩]
  exact (Controller.releaseTransmitBuffer_withInFlight _ _ true).symm

/-! ### Failed attempts (30_encoding.md R101; 41_transmit.md R174) -/

/-- The event fails an attempt at the transmission in progress, after this capture. -/
structure FailsAttempt (e : EnvEvent) (capture : Controller → Controller) : Prop where
  traffic : e.isTraffic = true
  event : ∀ (c : Controller) (p : Config.Params) (free : Nat → Byte), c.onBus = true →
    c.onEvent p free e = (capture c.awake).attemptFails
  inFlight : ∀ (c : Controller) (x : Option TxRequest),
    capture { c with inFlight := x } = { capture c with inFlight := x }
  mayTransmit : ∀ c : Controller, c.regs.wf = true → (capture c).mayTransmit = c.mayTransmit

theorem failsAttempt_arbLost (v : Byte) : FailsAttempt (.arbLostCapture v) (·.captureArbLost v) where
  traffic := rfl
  event c p free hbus := by simp only [Controller.onEvent, hbus, if_true]
  inFlight c x := by
    simp only [Controller.captureArbLost]
    split <;> rfl
  mayTransmit c h := by
    obtain ⟨-, -, -, -, hread⟩ := Controller.captureArbLost_spec h v
    exact (Controller.bus_congr (hread 0 (by decide) (by decide))
      (congrArg (·.getLsbD 7) (Controller.cell_congr (hread 2 (by decide) (by decide)) 0))).2

theorem failsAttempt_busError {v : Byte} (hdir : v.getLsbD 5 = false) :
    FailsAttempt (.busErrorCapture v) (·.captureBusError v) where
  traffic := rfl
  event c p free hbus := by simp only [Controller.onEvent, hbus, hdir, if_true, Bool.false_eq_true, if_false]
  inFlight c x := by
    simp only [Controller.captureBusError]
    split <;> rfl
  mayTransmit c h := by
    obtain ⟨-, -, -, -, hread⟩ := Controller.captureBusError_spec h v
    exact (Controller.bus_congr (hread 0 (by decide) (by decide))
      (congrArg (·.getLsbD 7) (Controller.cell_congr (hread 2 (by decide) (by decide)) 0))).2

theorem Controller.attemptFails_ends {c : Controller} {r : TxRequest} (h : c.inFlight = some r)
    (hmay : c.mayTransmit = true) (hr : r.singleShot = true ∨ r.abortRequested = true) :
    c.attemptFails = c.releaseTransmitBuffer false := by
  simp only [Controller.attemptFails, h, hmay, Bool.true_and, Bool.or_eq_true, hr, if_true]

theorem Controller.attemptFails_goes_on {c : Controller} {r : TxRequest} (h : c.inFlight = some r)
    (hr : ¬ (c.mayTransmit = true ∧ (r.singleShot = true ∨ r.abortRequested = true))) : c.attemptFails = c := by
  simp only [Controller.attemptFails, h, Bool.and_eq_true, Bool.or_eq_true, hr, if_false]

section
variable {e : EnvEvent} {capture : Controller → Controller} (he : FailsAttempt e capture)
  {c : Controller} {r : TxRequest} (hflight : c.inFlight = some r) (p : Config.Params) (free : Nat → Byte)
include he hflight

theorem FailsAttempt.capture_inFlight : (capture c).inFlight = some r := by
  have hkept := congrArg Controller.inFlight (he.inFlight c c.inFlight)
  exact hkept.trans hflight

/-- With the transmission set aside the event captures and nothing more. -/
theorem FailsAttempt.set_aside (hbus : c.onBus = true) (hawake : c.isSleeping = false) :
    { { c with inFlight := none }.onEvent p free e with inFlight := some r } = capture c := by
  have hbus' : ({ c with inFlight := none } : Controller).onBus = true := hbus
  have hawake' : ({ c with inFlight := none } : Controller).isSleeping = false := hawake
  rw [he.event _ p free hbus', Controller.awake_of_awake hawake', he.inFlight, Controller.attemptFails_of_idle rfl,
    ← he.capture_inFlight hflight]

/-- A single-shot or aborted transmission ends as not completed. -/
theorem FailsAttempt.ends (h : c.regs.wf = true) (hmay : c.mayTransmit = true)
    (hr : r.singleShot = true ∨ r.abortRequested = true) :
    c.onEvent p free e =
      { { c with inFlight := none }.onEvent p free e with inFlight := some r }.onEvent p free (.transmitEnd false) := by
  obtain ⟨hbus, hawake⟩ := Controller.mayTransmit_onBus hmay
  have hcaptured := he.capture_inFlight hflight
  rw [he.set_aside hflight p free hbus hawake, he.event c p free hbus, Controller.awake_of_awake hawake,
    Controller.attemptFails_ends hcaptured ((he.mayTransmit c h).trans hmay) hr]
  exact (Controller.endTransmission_plain (done := false) hcaptured free nofun).symm

/-- Any other transmission goes on. -/
theorem FailsAttempt.goes_on (h : c.regs.wf = true) (hawake : c.onBus = true → c.isSleeping = false)
    (hr : ¬ (c.mayTransmit = true ∧ (r.singleShot = true ∨ r.abortRequested = true))) :
    c.onEvent p free e = { { c with inFlight := none }.onEvent p free e with inFlight := some r } := by
  cases hbus : c.onBus with
  | true =>
    rw [he.set_aside hflight p free hbus (hawake hbus), he.event c p free hbus,
      Controller.awake_of_awake (hawake hbus),
      Controller.attemptFails_goes_on (he.capture_inFlight hflight) (by rwa [he.mayTransmit c h])]
  | false =>
    have hbus' : ({ c with inFlight := none } : Controller).onBus = false := hbus
    rw [Controller.onEvent_off_bus hbus p free he.traffic, Controller.onEvent_off_bus hbus' p free he.traffic,
      ← hflight]

end

/-- Settles O46: each event by its lemma above. -/
theorem transmissionEndsReleaseTheBuffer : Obligations.TransmissionEndsReleaseTheBuffer := by
  unfold Obligations.TransmissionEndsReleaseTheBuffer
  intro c p free hwf
  refine ⟨fun done hidle => Controller.endTransmission_of_idle hidle free done, fun hmute => ?_,
    fun r done hflight hdone => ?_, fun e hset hclear => ?_, fun r hflight hself hmay => ?_, fun r e hflight he => ?_⟩
  · exact Controller.endTransmission_of_mute (eq_false_of_ne_true fun h => hmute (c.CanTransmit_iff.mpr h)) free
  · have hplain : c.onEvent p free (.transmitEnd done) = c.releaseTransmitBuffer done :=
      Controller.endTransmission_plain hflight free fun h => ⟨c.CanTransmit_iff.mp (hdone h).1, (hdone h).2⟩
    rw [hplain]
    exact Controller.releaseTransmitBuffer_status hwf done
  · obtain ⟨bits, hraised, hti⟩ := Controller.onEvent_ir hwf p free e
    obtain ⟨-, -, htbs, -⟩ := (c.onEvent p free e).statusRegister_getLsbD
    obtain hbefore | ⟨hbit, -⟩ := hraised 1 hset
    · rw [hclear] at hbefore
      cases hbefore
    · rw [htbs, hti hbit]
      rfl
  · exact ⟨c.selfReceived free, fun k hk => c.selfReceived_bytes free hk,
      Controller.endTransmission_self_eq hwf hflight hself (c.CanTransmit_iff.mp hmay) p free⟩
  · obtain ⟨capture, hfails⟩ : ∃ capture, FailsAttempt e capture := by
      obtain ⟨v, rfl⟩ | ⟨v, rfl, hdir⟩ := he
      · exact ⟨_, failsAttempt_arbLost v⟩
      · exact ⟨_, failsAttempt_busError hdir⟩
    rw [Controller.CanTransmit_iff, Controller.OnBus_iff]
    exact ⟨fun hmay hr => hfails.ends hflight p free hwf hmay hr,
      fun hawake hr => hfails.goes_on hflight p free hwf hawake hr,
      fun hbus _ => Controller.onEvent_awake hwf p free hfails.traffic hbus⟩

end Sys2Proof.Machine
end

section
/-! Messages in the receive FIFO (10_state.md R32, R43, R52, R55, R56; 30_encoding.md R111, R112; logs 17, 27). -/

namespace Sys2Proof.Machine

/-! ### Where a message goes, in numbers -/

/-- The byte of a message as it stands in the FIFO: the RTR copy in the last identifier byte
(30_encoding.md R111, R112). -/
theorem receivedByte_eq (z : Image) (k : Nat) : receivedByte z k =
    if (imageByte z 0).getLsbD 7 = false ∧ k = 2 then
      imageByte z k &&& 0xEF#8 ||| (if (imageByte z 0).getLsbD 6 then 0x10#8 else 0x00#8)
    else if (imageByte z 0).getLsbD 7 = true ∧ k = 4 then
      imageByte z k &&& 0xFB#8 ||| (if (imageByte z 0).getLsbD 6 then 0x04#8 else 0x00#8)
    else imageByte z k := by
  unfold receivedByte idLength rtrCopyBit
  dsimp only
  cases (imageByte z 0).getLsbD 7 with
  | false =>
    simp only [Bool.false_eq_true, if_false, true_and, false_and]
    rfl
  | true =>
    simp only [if_true, true_and, Bool.true_eq_false, false_and, if_false]
    rfl

theorem Controller.fillStart_toNat (c : Controller) :
    c.fillStart.toNat = if c.fifoCount = 0 then (c.cell 0 30).toNat % 64 else c.fifoEnd.toNat := by
  unfold Controller.fillStart
  split
  · exact c.bufferStart_toNat
  · rfl

theorem Controller.fifoRoom_eq (c : Controller) :
    c.fifoRoom = if c.fifoCount = 0 then 64 else ((c.cell 0 30).toNat % 64 + 64 - c.fifoEnd.toNat) % 64 := by
  unfold Controller.fifoRoom
  split
  · rfl
  · have hend := c.fifoEnd.isLt
    rw [BitVec.toNat_sub, c.bufferStart_toNat]
    omega

/-! ### One message arrives -/

/-- On the bus and awake, a message is received as it is. -/
theorem Controller.onEvent_message_awake {c : Controller} (hbus : c.onBus = true) (hawake : c.isSleeping = false)
    (p : Config.Params) (free : Nat → Byte) (img : Image) : c.onEvent p free (.message img) = c.receive img := by
  rw [Controller.onEvent_message hbus, Controller.awake_of_awake hawake]

theorem Controller.receive_of_fits {c : Controller} {img : Image} (h : imageLength (imageByte img 0) ≤ c.fifoRoom) :
    c.receive img = c.enqueue img := by
  obtain ⟨-, e⟩ | ⟨hlong, -⟩ := c.receive_cases img
  · exact e
  · omega

theorem Controller.receive_of_long {c : Controller} {img : Image} (h : c.fifoRoom < imageLength (imageByte img 0)) :
    c.receive img = c.loseMessage := by
  obtain ⟨hfits, -⟩ | ⟨-, e⟩ := c.receive_cases img
  · omega
  · exact e

/-- A lost message sets SR.DOS and no other bit of SR (10_state.md R43). -/
theorem Controller.loseMessage_status {c : Controller} (h : c.regs.wf = true) :
    c.ChangesOnly c.loseMessage [2, 3] ∧ c.loseMessage.statusRegister = c.statusRegister ||| 0x02#8 := by
  obtain ⟨-, heq, -, hcell, hread⟩ := Controller.loseMessage_spec h
  refine ⟨⟨heq, fun a ha => ?_⟩, BitVec.eq_of_getLsbD_eq fun j hj => ?_⟩
  · simp only [List.mem_cons, List.not_mem_nil, or_false, not_or] at ha
    exact hread a ha.1 ha.2
  · rw [Controller.statusRegister_of_overrun heq hread
      (fun i hi h1 => by rw [hcell, getLsbD_or_02 _ hi, if_neg h1]) hj, hcell, getLsbD_or_02 _ hj,
      getLsbD_or_02 _ (by decide), if_pos rfl]

/-! ### Two messages into an empty FIFO -/

/-- What of a controller the receive buffer hangs on: the mode, RBSA and the count. -/
theorem Controller.enqueue_buffer {c : Controller} (h : c.regs.wf = true) (img : Image) :
    (c.enqueue img).cell 0 0 = c.cell 0 0 ∧ (c.enqueue img).cell 0 30 = c.cell 0 30 ∧
    (c.enqueue img).fifoCount = c.fifoCount + 1 ∧
    (c.enqueue img).fifoEnd.toNat = (c.fillStart.toNat + imageLength (imageByte img 0)) % 64 := by
  obtain ⟨-, heq, -, -, hread⟩ := Controller.enqueue_spec h img
  refine ⟨Controller.cell_congr (hread 0 (by decide) fun k _ => by omega) 0,
    Controller.cell_congr (hread 30 (by decide) fun k _ => by omega) 0, by rw [heq], ?_⟩
  rw [heq, BitVec.toNat_add, BitVec.toNat_ofNat]
  omega

section
variable {c : Controller} (h : c.regs.wf = true) (hcount : c.fifoCount = 0) (x y : Image)
include h hcount

/-- The second message finds room behind the first. -/
theorem Controller.fits_behind_first : imageLength (imageByte y 0) ≤ (c.enqueue x).fifoRoom := by
  obtain ⟨-, hrbsa, hone, hend⟩ := Controller.enqueue_buffer h x
  have hx := imageLength_bounds (imageByte x 0)
  have hy := imageLength_bounds (imageByte y 0)
  rw [Controller.fillStart_toNat, if_pos hcount] at hend
  rw [Controller.fifoRoom_eq, hone, if_neg (by omega), hrbsa, hend]
  omega

/-- Both messages stand in the RAM, the second behind the first. -/
theorem Controller.two_messages_read :
    (∀ k < imageLength (imageByte x 0),
      ((c.enqueue x).enqueue y).regs.read (32 + ((c.cell 0 30).toNat + k) % 64) = some (receivedByte x k)) ∧
    (∀ k < imageLength (imageByte y 0), ((c.enqueue x).enqueue y).regs.read
      (32 + ((c.cell 0 30).toNat + imageLength (imageByte x 0) + k) % 64) = some (receivedByte y k)) := by
  obtain ⟨hwf, -, -, hx, -⟩ := Controller.enqueue_spec h x
  obtain ⟨-, -, -, hy, hkept⟩ := Controller.enqueue_spec hwf y
  obtain ⟨-, -, hone, hend⟩ := Controller.enqueue_buffer h x
  have hxlen := imageLength_bounds (imageByte x 0)
  have hylen := imageLength_bounds (imageByte y 0)
  have hfirst : c.fillStart.toNat = (c.cell 0 30).toNat % 64 := by rw [Controller.fillStart_toNat, if_pos hcount]
  have hsecond : (c.enqueue x).fillStart.toNat = ((c.cell 0 30).toNat + imageLength (imageByte x 0)) % 64 := by
    rw [Controller.fillStart_toNat, hone, if_neg (by omega), hend, hfirst]
    omega
  refine ⟨fun k hk => ?_, fun k hk => ?_⟩
  · rw [hkept _ (by omega) fun j hj => by rw [hsecond]; omega]
    have hk' := hx k hk
    rwa [hfirst, Nat.mod_add_mod] at hk'
  · have hk' := hy k hk
    rwa [hsecond, Nat.mod_add_mod] at hk'

end

/-- In operating mode the receive buffer shows what stands in the RAM. -/
theorem Controller.shows_buffer_of_read {c : Controller} (hmode : c.inResetMode = false) {k : Nat} (hk : k ≤ 12)
    {v : Byte} (hread : c.regs.read (32 + ((c.cell 0 30).toNat + k) % 64) = some v) (free : Byte) :
    c.shows free (BitVec.ofNat 7 (16 + k)) = v := by
  rw [Controller.shows_buffer hmode free hk, Controller.bufferCell_eq, Controller.cell, hread]
  rfl

theorem messageCount_of_fifoCount {c : Controller} {n : Nat} (h : c.fifoCount = n) :
    c.messageCount = BitVec.ofNat 8 (n % 32) := by rw [Controller.messageCount, h]

/-- The first byte of a message, its frame-info byte, is stored as it came. -/
theorem receivedByte_zero (z : Image) : receivedByte z 0 = imageByte z 0 := by
  rw [receivedByte_eq, if_neg (by simp), if_neg (by simp)]

/-- Two messages into an empty FIFO: the receive buffer shows the first, and after a release the second. -/
theorem Controller.two_messages {c : Controller} (h : c.regs.wf = true) (hmode : c.inResetMode = false)
    (hcount : c.fifoCount = 0) (free : Nat → Byte) (x y : Image) :
    let e := (c.enqueue x).enqueue y
    let f := e.releaseReceiveBuffer free
    e.messageCount = 2 ∧
    (∀ b, ∀ k < imageLength (imageByte x 0), e.shows b (BitVec.ofNat 7 (16 + k)) = receivedByte x k) ∧
    f.messageCount = 1 ∧
    (∀ b, ∀ k < imageLength (imageByte y 0), f.shows b (BitVec.ofNat 7 (16 + k)) = receivedByte y k) ∧
    e.shows 0 30 = c.shows 0 30 ∧
    (f.shows 0 30).toNat % 64 = ((c.shows 0 30).toNat + imageLength (imageByte x 0)) % 64 := by
  intro e f
  have hwf := (Controller.enqueue_spec h x).1
  have hwfe : e.regs.wf = true := (Controller.enqueue_spec hwf y).1
  obtain ⟨hmod1, hrbsa1, hcount1, -⟩ := Controller.enqueue_buffer h x
  obtain ⟨hmod2, hrbsa2, hcount2, -⟩ := Controller.enqueue_buffer hwf y
  obtain ⟨hx, hy⟩ := Controller.two_messages_read h hcount x y
  have hxlen := imageLength_bounds (imageByte x 0)
  have hylen := imageLength_bounds (imageByte y 0)
  have hcounte : e.fifoCount = 2 := by rw [show e.fifoCount = _ from hcount2, hcount1, hcount]
  have hrbsae : e.cell 0 30 = c.cell 0 30 := hrbsa2.trans hrbsa1
  have hmodee : e.inResetMode = false := by
    rw [Controller.inResetMode, show e.cell 0 0 = _ from hmod2.trans hmod1]
    exact hmode
  obtain ⟨heqf, hreadf, hlowf, -⟩ := Controller.releaseReceiveBuffer_spec hwfe free (by omega)
  have hinfo : e.oldestInfo free = imageByte x 0 := by
    have hzero := hx 0 (by omega)
    rw [Controller.oldestInfo, Controller.cell, Controller.bufferCell_eq, hrbsae, show e.regs.read _ = _ from hzero,
      receivedByte_zero]
    rfl
  have hrbsaf : (f.cell 0 30).toNat % 64 = ((c.cell 0 30).toNat + imageLength (imageByte x 0)) % 64 := by
    rw [show (f.cell 0 30).toNat % 64 = _ from hlowf, hrbsae, hinfo]
  have hmodef : f.inResetMode = false := by
    rw [Controller.inResetMode, show f.cell 0 0 = e.cell 0 0 from Controller.cell_congr (hreadf 0 (by decide)) 0]
    exact hmodee
  refine ⟨messageCount_of_fifoCount hcounte, fun b k hk => ?_, messageCount_of_fifoCount (n := 1) ?_,
    fun b k hk => ?_, ?_, ?_⟩
  · refine Controller.shows_buffer_of_read hmodee (by omega) ?_ b
    rw [hrbsae]
    exact hx k hk
  · rw [show f.fifoCount = _ from congrArg Controller.fifoCount heqf]
    exact congrArg (· - 1) hcounte
  · refine Controller.shows_buffer_of_read hmodef (by omega) ?_ b
    have hcell : 32 + ((f.cell 0 30).toNat + k) % 64 =
        32 + ((c.cell 0 30).toNat + imageLength (imageByte x 0) + k) % 64 := by omega
    rw [hcell, show f.regs.read _ = _ from hreadf _ (by omega)]
    exact hy k hk
  · rw [Controller.shows_rbsa, Controller.shows_rbsa, hrbsae]
  · rw [Controller.shows_rbsa, Controller.shows_rbsa, hrbsaf]

/-- A message that enters the FIFO leaves the controller on the bus and awake as it was. -/
theorem Controller.enqueue_bus {c : Controller} (h : c.regs.wf = true) (img : Image) :
    (c.enqueue img).onBus = c.onBus ∧ (c.enqueue img).isSleeping = c.isSleeping := by
  obtain ⟨-, -, -, -, hread⟩ := Controller.enqueue_spec h img
  have hmod : (c.enqueue img).regs.read 0 = c.regs.read 0 := hread 0 (by decide) fun k _ => by omega
  refine ⟨(Controller.bus_congr hmod
    (congrArg (·.getLsbD 7) (Controller.cell_congr (hread 2 (by decide) fun k _ => by omega) 0))).1, ?_⟩
  rw [Controller.isSleeping, Controller.cell_congr hmod 0]
  rfl

theorem Controller.onBus_inResetMode {c : Controller} (h : c.onBus = true) : c.inResetMode = false := by
  simp only [Controller.onBus, Bool.and_eq_true, Bool.not_eq_true'] at h
  exact h.1

/-- On the bus, two messages into an empty FIFO both enter it, once the controller is awake. -/
theorem Controller.onEvent_two_messages {c : Controller} (h : c.regs.wf = true) (hbus : c.onBus = true)
    (hcount : c.fifoCount = 0) (p : Config.Params) (free : Nat → Byte) (x y : Image) :
    (c.onEvent p free (.message x)).onEvent p free (.message y) = (c.awake.enqueue x).enqueue y := by
  obtain ⟨hwf, heq, -, -, -, hawake, hstill⟩ := Controller.awake_spec h
  have hcount' : c.awake.fifoCount = 0 := by rw [heq]; exact hcount
  have hx := imageLength_bounds (imageByte x 0)
  obtain ⟨hbus1, hawake1⟩ := Controller.enqueue_bus hwf x
  rw [Controller.onEvent_message hbus,
    Controller.receive_of_fits (c := c.awake) (by rw [Controller.fifoRoom_eq, if_pos hcount']; omega),
    Controller.onEvent_message_awake (hbus1.trans (hstill.trans hbus)) (hawake1.trans hawake),
    Controller.receive_of_fits (Controller.fits_behind_first hwf hcount' x y)]

/-- Settles O45: the wake-up, then the two ends of one message, then two messages in order. -/
theorem messagesQueueInTheFifo : Obligations.MessagesQueueInTheFifo := by
  unfold Obligations.MessagesQueueInTheFifo
  intro c p free x y hwf len got sleeping buffer start room d e f
  have hgot : got = fun z k => receivedByte z k := funext fun z => funext fun k => (receivedByte_eq z k).symm
  have hbuffer : buffer = (c.cell 0 30).toNat % 64 := by
    show (c.shows 0 30).toNat % 64 = _
    rw [Controller.shows_rbsa]
  have hstart : c.fillStart.toNat = start := by
    rw [Controller.fillStart_toNat, ← hbuffer]
  have hroom : c.fifoRoom = room := by
    rw [Controller.fifoRoom_eq, ← hbuffer]
  rw [Controller.OnBus_iff, hgot, ← hstart, ← hroom]
  refine ⟨fun hbus => Controller.onEvent_off_bus (eq_false_of_ne_true hbus) p free rfl,
    fun hbus _ => Controller.onEvent_awake hwf p free rfl hbus, fun hbus hawake hfits => ?_,
    fun hbus hawake hlong => ?_, fun hbus hcount => ?_⟩
  · have hd : d = c.enqueue x :=
      (Controller.onEvent_message_awake hbus hawake p free x).trans (Controller.receive_of_fits hfits)
    obtain ⟨-, heq, hir, hbytes, hread⟩ := Controller.enqueue_spec hwf x
    obtain ⟨-, -, -, hend⟩ := Controller.enqueue_buffer hwf x
    rw [hd]
    refine ⟨?_, hend, hir, hbytes, hread⟩
    rw [heq]
  · have hd : d = c.loseMessage :=
      (Controller.onEvent_message_awake hbus hawake p free x).trans (Controller.receive_of_long hlong)
    obtain ⟨-, -, hir, -⟩ := Controller.loseMessage_spec hwf
    obtain ⟨honly, hsr⟩ := Controller.loseMessage_status hwf
    rw [hd]
    exact ⟨honly, hsr, hir⟩
  · obtain ⟨hwfa, heqa, -, -, hreada, -, hstill⟩ := Controller.awake_spec hwf
    have he : e = (c.awake.enqueue x).enqueue y := Controller.onEvent_two_messages hwf hbus hcount p free x y
    have hf : f = ((c.awake.enqueue x).enqueue y).releaseReceiveBuffer free := congrArg (·.releaseReceiveBuffer free) he
    have hcounta : c.awake.fifoCount = 0 := by rw [heqa]; exact hcount
    have hrbsa : c.shows 0 30 = c.awake.shows 0 30 := by
      rw [Controller.shows_rbsa, Controller.shows_rbsa]
      exact (Controller.cell_congr (hreada 30 (by decide) (by decide)) 0).symm
    rw [he, hf, hrbsa]
    exact Controller.two_messages hwfa (Controller.onBus_inResetMode (hstill.trans hbus)) hcounta free x y

end Sys2Proof.Machine
end

section
/-! The side effects of one access at the controller (20_memory.md R65, R66; 10_state.md R40, R41; logs 18, 22, 24, 26,
28). -/

namespace Sys2Proof.Machine

/-! ### Reads (20_memory.md R65) -/

/-- IR loses the flags it reported, and no other cell changes. -/
theorem Controller.afterRead_ir {c : Controller} (h : c.regs.wf = true) (v free : Byte) :
    (c.afterRead 3 v).cell free 3 = c.cell free 3 &&& ~~~v ∧
      (∀ a, a ≠ 3 → (c.afterRead 3 v).regs.read a = c.regs.read a) ∧
      c.afterRead 3 v = { c with regs := (c.afterRead 3 v).regs } := by
  have hset : c.afterRead 3 v = c.setCell 3 (c.cell 0 3 &&& ~~~v) := rfl
  rw [hset]
  refine ⟨?_, fun a ha => ?_, Controller.setCell_eq c 3 _⟩
  · rw [Controller.setCell_cell h, if_pos rfl, registerMask_full (by decide) (by decide), c.cell_free rfl free 0]
  · rw [Controller.setCell_read h, if_neg ha]

/-- Settles O43: IR, the two captures, and the reads without a side effect. -/
theorem readSideEffects : Obligations.ReadSideEffects := by
  unfold Obligations.ReadSideEffects
  intro c off v free hwf
  refine ⟨?_, ?_, ?_, fun h3 h11 h12 => ?_⟩
  · rintro rfl
    exact Controller.afterRead_ir hwf v free
  · rintro rfl
    rfl
  · rintro rfl
    rfl
  · exact c.afterRead_of_quiet ⟨BitVec.toNat_ne.mp h3, BitVec.toNat_ne.mp h11, BitVec.toNat_ne.mp h12⟩ v

/-! ### Writes (20_memory.md R66; 10_state.md R40) -/

/-- A write that stores gives the register of its cell the value. -/
theorem Controller.afterWrite_of_stores {c : Controller} {off : Offset} {a : Nat} (hoff : off.toNat ≠ 1)
    (hcell : c.writeCell off = some a) (limit : Nat) (v : Byte) :
    c.afterWrite limit off v = c.setRegister limit a v := by
  rw [Controller.afterWrite, if_neg hoff, hcell]

/-- A write where the map has a dash changes nothing. -/
theorem Controller.afterWrite_of_dash {c : Controller} {off : Offset} (hoff : off.toNat ≠ 1)
    (hcell : c.writeCell off = none) (limit : Nat) (v : Byte) : c.afterWrite limit off v = c := by
  rw [Controller.afterWrite, if_neg hoff, hcell]

/-- The write columns of the map that both modes share: MOD, IER and CDR. -/
theorem writableAlways_iff (a : Nat) : writableAlways a = true ↔ a ∈ [0, 4, 31] := by
  simp [writableAlways, or_assoc]

/-- The write columns of the map in reset mode: the registers and the FIFO RAM. -/
theorem writableInReset_iff (a : Nat) :
    writableInReset a = true ↔ a ∈ [6, 7, 8, 13, 14, 15, 30] ∨ (16 ≤ a ∧ a ≤ 23) ∨ (32 ≤ a ∧ a ≤ 95) := by
  simp only [writableInReset, Bool.or_eq_true, beq_iff_eq, Bool.and_eq_true, decide_eq_true_eq, List.mem_cons,
    List.not_mem_nil, or_false]
  tauto

theorem Controller.writeCell_always (c : Controller) {off : Offset} (h : off.toNat ∈ [0, 4, 31]) :
    c.writeCell off = some off.toNat :=
  if_pos ((writableAlways_iff _).mpr h)

/-- In reset mode every other register is written through its own cell, if at all. -/
theorem Controller.writeCell_reset {c : Controller} (hmode : c.inResetMode = true) {off : Offset}
    (h : off.toNat ∉ [0, 4, 31]) :
    c.writeCell off = if writableInReset off.toNat then some off.toNat else none := by
  have halways : ¬ writableAlways off.toNat = true := h ∘ (writableAlways_iff _).mp
  simp only [Controller.writeCell, if_neg halways, if_pos hmode]

/-- In operating mode the other offsets outside the transmit buffer store nothing. -/
theorem Controller.writeCell_operating {c : Controller} (hmode : c.inResetMode = false) {off : Offset}
    (h : off.toNat ∉ [0, 4, 31]) (hbuf : ¬ (16 ≤ off.toNat ∧ off.toNat ≤ 28)) : c.writeCell off = none := by
  have halways : ¬ writableAlways off.toNat = true := h ∘ (writableAlways_iff _).mp
  simp only [Controller.writeCell, if_neg halways, if_neg (ne_true_of_eq_false hmode), if_neg hbuf]

/-- Settles O44: each clause from the cell that the map gives the write, or from its dash. -/
theorem writeSideEffects : Obligations.WriteSideEffects := by
  unfold Obligations.WriteSideEffects
  refine fun c limit v => ⟨rfl, fun k hk hmode hpending => ?_, fun off hmode hoff hbuf => ?_, fun off hmode hoff => ?_,
    fun hwf => ?_, fun off hwf hoff => ?_⟩
  · rw [Controller.afterWrite_buffer hmode limit hk, hpending, if_pos rfl]
  · simp only [List.mem_cons, List.not_mem_nil, or_false, not_or] at hoff
    obtain ⟨h0, h1, h4, -, h31⟩ := hoff
    exact Controller.afterWrite_of_dash h1 (Controller.writeCell_operating hmode (by simp [h0, h4, h31]) hbuf) limit v
  · simp only [List.mem_cons, List.not_mem_nil, or_false] at hoff
    have hdash : ¬ writableInReset off.toNat = true := by
      rw [writableInReset_iff]
      simp only [List.mem_cons, List.not_mem_nil, or_false]
      omega
    have hcell : c.writeCell off = none := by
      rw [Controller.writeCell_reset hmode (by simp; omega), if_neg hdash]
    exact Controller.afterWrite_of_dash (by omega) hcell limit v
  · exact Controller.setRegister_plain hwf limit (a := 0) (by decide) v
  · have hcell : c.writeCell off = some off.toNat := by
      by_cases halways : off.toNat ∈ [0, 4, 31]
      · exact c.writeCell_always halways
      · obtain h | ⟨hmode, h⟩ := hoff
        · exact absurd (List.mem_cons_of_mem 0 h) halways
        · rw [Controller.writeCell_reset hmode halways, if_pos]
          rw [writableInReset_iff]
          simp only [List.mem_cons, List.not_mem_nil, or_false] at h ⊢
          omega
    simp only [List.mem_cons, List.not_mem_nil, or_false] at hoff
    have hplain := Controller.setRegister_plain hwf limit (a := off.toNat) (by simp; omega) v
    rw [if_neg (by omega)] at hplain
    rw [Controller.afterWrite_of_stores (by omega) hcell]
    exact hplain

end Sys2Proof.Machine
end

section
/-! What an operation says on the register port, said once (20_memory.md R68 to R70): it makes its accesses one after
another, each with its answer, in one chip-select bracket, or none at all; and it ends with events. -/

namespace Sys2Proof.Machine

/-! ### Accesses and their answers (20_memory.md R69) -/

/-- The entry of the access with number `n`, found by the controller in state `c`, agrees with the answer to it. -/
def LogEntry.Agrees (e : LogEntry) (answer : Config.Answer) (c : Controller) (n : Nat) : Prop :=
  (∀ off v w, e = .rd off v → answer = .byte w → v = w) ∧
  (∀ off v, e = .rd off v → answer = .held → v = c.shows (Config.freeByte n off.toNat) off) ∧
  ((∃ off, e = .noResp off) ↔ answer = .noresp)

/-- Each of these accesses, made from `s` on, agrees with its answer: the `k`-th finds the controller after those
before. -/
def EachAnswered (s : State) (accs : List LogEntry) : Prop :=
  ∀ (k : Nat) (e : LogEntry), accs[k]? = some e → e.Agrees (s.answerAt (s.accesses + k))
    (s.controller.afterEntries s.params.passiveLimit (accs.take k)) (s.accesses + k)

theorem eachAnswered_nil (s : State) : EachAnswered s [] := by
  intro k e hk
  simp at hk

/-- From `s` to `t` these accesses were made, and nothing else was logged: each is counted and agrees with its answer,
and they alone had effects at the controller. -/
structure Conversation (s : State) (accs : List LogEntry) (t : State) : Prop where
  log : t.log = s.log ++ accs
  accesses : t.accesses = s.accesses + accs.length
  controller : t.controller = s.controller.afterEntries s.params.passiveLimit accs
  answers : t.answers = s.answers
  params : t.params = s.params
  isAccess : ∀ e ∈ accs, e.isAccess = true
  agrees : EachAnswered s accs

/-- From `s` to `t` nothing was said on the register port; the CFC's own record may have changed. -/
structure PortIdle (s t : State) : Prop where
  log : t.log = s.log
  accesses : t.accesses = s.accesses
  controller : t.controller = s.controller
  answers : t.answers = s.answers
  params : t.params = s.params

theorem PortIdle.refl (s : State) : PortIdle s s := ⟨rfl, rfl, rfl, rfl, rfl⟩

theorem portIdle_withStatus (s : State) (x : ControllerStatus) : PortIdle s (s.withStatus x) :=
  ⟨rfl, rfl, rfl, rfl, rfl⟩

theorem portIdle_withEccCap (s : State) (x : Option Byte) : PortIdle s (s.withEccCap x) := ⟨rfl, rfl, rfl, rfl, rfl⟩

theorem portIdle_withAlcCap (s : State) (x : Option Byte) : PortIdle s (s.withAlcCap x) := ⟨rfl, rfl, rfl, rfl, rfl⟩

theorem portIdle_applyClass (s : State) (cls : BusClass) : PortIdle s (s.applyClass cls) := by
  unfold State.applyClass
  repeat' split
  all_goals exact ⟨rfl, rfl, rfl, rfl, rfl⟩

theorem portIdle_enterMode (s : State) (m : ModeView) : PortIdle s (s.enterMode m) := by
  cases hop : m.op with
  | operating => rw [State.enterMode_operating hop]; exact ⟨rfl, rfl, rfl, rfl, rfl⟩
  | reset => rw [State.enterMode_reset hop]; exact ⟨rfl, rfl, rfl, rfl, rfl⟩

theorem PortIdle.conversation {s t : State} (h : PortIdle s t) : Conversation s [] t :=
  ⟨by simp [h.log], h.accesses, h.controller, h.answers, h.params, by simp, eachAnswered_nil s⟩

/-- The same answers are still to come. -/
theorem Conversation.answerAt_eq {s t : State} {accs : List LogEntry} (h : Conversation s accs t) (n : Nat) :
    t.answerAt n = s.answerAt n := by
  unfold State.answerAt
  rw [h.answers]

theorem Controller.afterEntries_append (limit : Nat) (c : Controller) (xs ys : List LogEntry) :
    c.afterEntries limit (xs ++ ys) = (c.afterEntries limit xs).afterEntries limit ys :=
  List.foldl_append

/-- One sequence of accesses after another: the second goes on counting where the first ended. -/
theorem Conversation.trans {s t u : State} {xs ys : List LogEntry} (h : Conversation s xs t)
    (g : Conversation t ys u) : Conversation s (xs ++ ys) u where
  log := by rw [g.log, h.log, List.append_assoc]
  accesses := by rw [g.accesses, h.accesses, List.length_append, Nat.add_assoc]
  controller := by rw [g.controller, h.controller, h.params, Controller.afterEntries_append]
  answers := g.answers.trans h.answers
  params := g.params.trans h.params
  isAccess := fun e he => (List.mem_append.mp he).elim (h.isAccess e) (g.isAccess e)
  agrees := fun k e hk => by
    by_cases hlt : k < xs.length
    · rw [List.getElem?_append_left hlt] at hk
      rw [List.take_append_of_le_length hlt.le]
      exact h.agrees k e hk
    · obtain ⟨j, rfl⟩ := Nat.exists_eq_add_of_le (not_lt.mp hlt)
      rw [List.getElem?_append_right (by omega), Nat.add_sub_cancel_left] at hk
      have hj := g.agrees j e hk
      rw [h.answerAt_eq, h.accesses, h.controller, h.params, ← Controller.afterEntries_append, Nat.add_assoc] at hj
      rw [List.take_length_add_append]
      exact hj

/-- One access. -/
theorem conversation_single {s t : State} {e : LogEntry} (hlog : t.log = s.log ++ [e])
    (haccesses : t.accesses = s.accesses + 1)
    (hcontroller : t.controller = s.controller.afterEntry s.params.passiveLimit e) (hanswers : t.answers = s.answers)
    (hparams : t.params = s.params) (haccess : e.isAccess = true)
    (hagrees : e.Agrees (s.answerAt s.accesses) s.controller s.accesses) : Conversation s [e] t where
  log := hlog
  accesses := haccesses
  controller := hcontroller
  answers := hanswers
  params := hparams
  isAccess := by simpa using haccess
  agrees := fun k x hk => by
    obtain ⟨hlt, rfl⟩ := List.getElem?_eq_some_iff.mp hk
    obtain rfl : k = 0 := by simpa using hlt
    exact hagrees

/-- A read that goes on returned the answer's byte, or the register map's own. -/
theorem rd_agrees {s : State} {off : Offset} {v : Byte} (h : s.readValue off = some v) :
    (LogEntry.rd off v).Agrees (s.answerAt s.accesses) s.controller s.accesses := by
  unfold State.readValue at h
  cases hanswer : s.answerAt s.accesses with
  | byte w =>
    rw [hanswer] at h
    obtain rfl := Option.some.inj h
    simp [LogEntry.Agrees]
  | held =>
    rw [hanswer] at h
    obtain rfl := Option.some.inj h
    simp [LogEntry.Agrees]
  | noresp =>
    rw [hanswer] at h
    cases h

/-- A read without a value got no response. -/
theorem answerAt_of_readValue_none {s : State} {off : Offset} (h : s.readValue off = none) :
    s.answerAt s.accesses = .noresp := by
  by_contra hanswer
  obtain ⟨v, hvalue, -⟩ := readValue_of_responds (off := off) hanswer
  rw [h] at hvalue
  cases hvalue

theorem wr_agrees {answer : Config.Answer} (h : answer ≠ .noresp) (off : Offset) (v : Byte) (c : Controller) (n : Nat) :
    (LogEntry.wr off v).Agrees answer c n := by
  simp [LogEntry.Agrees, h]

theorem noResp_agrees {answer : Config.Answer} (h : answer = .noresp) (off : Offset) (c : Controller) (n : Nat) :
    (LogEntry.noResp off).Agrees answer c n := by
  simp [LogEntry.Agrees, h]

/-! ### Sequences of accesses -/

/-- A sequence of accesses from `s` on is a conversation of at least `n` accesses, lost at the last of them or not. -/
def Access.Converses {α : Type} (s : State) (n : Nat) (a : Access α) : Prop :=
  ∃ accs, n ≤ accs.length ∧ Conversation s accs a.last

theorem regRead_converses (off : Offset) (s : State) : (regRead off s).Converses s 1 := by
  obtain ⟨v, hvalue, e⟩ | ⟨hvalue, e⟩ := regRead_cases off s
  · rw [e]
    exact ⟨[.rd off v], le_rfl, conversation_single rfl rfl rfl rfl rfl rfl (rd_agrees hvalue)⟩
  · rw [e]
    exact ⟨[.noResp off], le_rfl,
      conversation_single rfl rfl rfl rfl rfl rfl (noResp_agrees (answerAt_of_readValue_none hvalue) off _ _)⟩

theorem regWrite_converses (off : Offset) (v : Byte) (s : State) : (regWrite off v s).Converses s 1 := by
  obtain ⟨hanswer, e⟩ | ⟨hanswer, e⟩ := regWrite_cases off v s
  · rw [e]
    exact ⟨[.wr off v], le_rfl, conversation_single rfl rfl rfl rfl rfl rfl (wr_agrees hanswer off v _ _)⟩
  · rw [e]
    exact ⟨[.noResp off], le_rfl, conversation_single rfl rfl rfl rfl rfl rfl (noResp_agrees hanswer off _ _)⟩

section
variable {α β : Type} {s t : State} {n : Nat} {a : Access α}

/-- Going on without any access. -/
theorem PortIdle.converses (h : PortIdle s t) (v : α) : (Access.going v t).Converses s 0 := ⟨[], le_rfl, h.conversation⟩

/-- The CFC's record may change before the first access. -/
theorem Access.Converses.after (h : a.Converses t n) (hidle : PortIdle s t) : a.Converses s n := by
  obtain ⟨accs, hn, hconv⟩ := h
  exact ⟨accs, hn, hidle.conversation.trans hconv⟩

theorem Access.Converses.atLeast {m : Nat} (h : a.Converses s n) (hm : m ≤ n) : a.Converses s m := by
  obtain ⟨accs, hn, hconv⟩ := h
  exact ⟨accs, hm.trans hn, hconv⟩

/-- Accesses that are made or not, as the CFC decides. -/
theorem converses_optional (h : a.Converses s n) (hidle : PortIdle s t) (v : α) {p : Prop} [Decidable p] :
    (if p then a else .going v t).Converses s 0 := by
  split
  · exact h.atLeast (Nat.zero_le _)
  · exact hidle.converses v

theorem Access.Converses.andThen {k : α → State → Access β} {m : Nat} (h : a.Converses s n)
    (hk : ∀ v u, (k v u).Converses u m) : (a.andThen k).Converses s n := by
  obtain ⟨xs, hn, hfirst⟩ := h
  cases a with
  | lost u => exact ⟨xs, hn, hfirst⟩
  | going v u =>
    obtain ⟨ys, -, hnext⟩ := hk v u
    exact ⟨xs ++ ys, hn.trans (by simp), hfirst.trans hnext⟩

end

theorem regReadAll_converses (offs : List Offset) (s : State) : (regReadAll offs s).Converses s 0 := by
  induction offs generalizing s with
  | nil => exact (PortIdle.refl s).converses _
  | cons off offs ih =>
    refine ((regRead_converses off s).andThen (m := 0) fun v t => ?_).atLeast (Nat.zero_le _)
    exact (ih t).andThen fun vs u => (PortIdle.refl u).converses _

theorem regWriteAll_converses (ws : List (Offset × Byte)) (s : State) : (regWriteAll ws s).Converses s 0 := by
  induction ws generalizing s with
  | nil => exact (PortIdle.refl s).converses _
  | cons w ws ih => exact ((regWrite_converses w.1 w.2 s).andThen fun _ t => ih t).atLeast (Nat.zero_le _)

/-! ### The accesses of each operation -/

/-- A frame is at least its frame-info byte, so a transmission writes at least once. -/
theorem transmitAccesses_converses (command : Byte) (f : Frame) (s : State) :
    ((regWriteAll (bufferWrites f) s).andThen fun _ t => regWrite 1 command (t.setTxBusy true)).Converses s 1 := by
  have hbuffer : (regWriteAll (bufferWrites f) s).Converses s 1 :=
    (regWrite_converses _ _ s).andThen fun _ t => regWriteAll_converses _ t
  exact hbuffer.andThen fun _ t => (regWrite_converses 1 command _).after (portIdle_withStatus t _)

theorem readFrame_converses (s : State) : (readFrame s).Converses s 1 :=
  (regRead_converses _ s).andThen fun _ t =>
    (regReadAll_converses _ t).andThen fun _ u => (PortIdle.refl u).converses _

theorem acknowledgeOverrun_converses (s : State) : (acknowledgeOverrun s).Converses s 0 :=
  converses_optional ((regWrite_converses 1 0x08 s).andThen fun _ t => (portIdle_withStatus t _).converses _)
    (.refl s) _

theorem drainMessage_converses (s : State) : (drainMessage s).Converses s 1 :=
  (readFrame_converses s).andThen fun _ t => (regRead_converses 29 t).andThen fun _ u =>
    (regWrite_converses 1 0x04 u).andThen fun _ w =>
      ((acknowledgeOverrun_converses _).after (portIdle_withStatus w _)).andThen fun _ x =>
        (PortIdle.refl x).converses _

theorem receiveAccesses_converses (s : State) : (receiveAccesses s).Converses s 1 :=
  (regRead_converses 2 s).andThen fun _ t => converses_optional (drainMessage_converses t) (portIdle_withStatus t _) _

theorem onOverrun_idle (ir : Byte) (s : State) : PortIdle s (onOverrun ir s) := by
  unfold onOverrun
  split
  · exact portIdle_withStatus s _
  · exact .refl s

theorem onReceive_idle (ir : Byte) (s : State) : PortIdle s (onReceive ir s) := by
  unfold onReceive
  split
  · exact portIdle_withStatus s _
  · exact .refl s

theorem onBusError_converses (ir : Byte) (s : State) : (onBusError ir s).Converses s 0 :=
  converses_optional (((regRead_converses 12 _).after (portIdle_withStatus s _)).andThen fun v t =>
    (portIdle_withEccCap t (some v)).converses _) (.refl s) _

theorem onArbLost_converses (ir : Byte) (s : State) : (onArbLost ir s).Converses s 0 :=
  converses_optional (((regRead_converses 11 _).after (portIdle_withStatus s _)).andThen fun v t =>
    (portIdle_withAlcCap t (some v)).converses _) (.refl s) _

theorem onErrorState_converses (ir : Byte) (s : State) : (onErrorState ir s).Converses s 0 :=
  converses_optional ((regRead_converses 2 s).andThen fun _ t => (regRead_converses 13 t).andThen fun _ u =>
    (regRead_converses 14 u).andThen fun _ v => (regRead_converses 15 v).andThen fun _ w =>
      (portIdle_applyClass w _).converses _) (.refl s) _

theorem onTransmit_converses (ir : Byte) (s : State) : (onTransmit ir s).Converses s 0 :=
  converses_optional ((regRead_converses 2 s).andThen fun _ t => (portIdle_withStatus t _).converses _) (.refl s) _

theorem interruptAccesses_converses (s : State) : (interruptAccesses s).Converses s 1 :=
  have branches (ir : Byte) (t : State) : (dispatchSnapshot ir t).Converses t 0 :=
    ((onBusError_converses ir _).after (onOverrun_idle ir t)).andThen fun _ u =>
      (onArbLost_converses ir u).andThen fun _ v => (onErrorState_converses ir v).andThen fun _ w =>
        (onTransmit_converses ir _).after (onReceive_idle ir w)
  (regRead_converses 3 s).andThen fun ir t => (branches ir t).andThen fun _ u => (PortIdle.refl u).converses _

/-! ### The events around the accesses (20_memory.md R68) -/

/-- From `s` to `t` events were logged at most: no access was made, and nothing happened at the controller. -/
structure Reports (s t : State) : Prop where
  events : ∃ evs, t.log = s.log ++ evs ∧ evs.all LogEntry.isOutside = true
  accesses : t.accesses = s.accesses
  controller : t.controller = s.controller

theorem PortIdle.reports {s t : State} (h : PortIdle s t) : Reports s t :=
  ⟨⟨[], by simp [h.log], rfl⟩, h.accesses, h.controller⟩

section
variable {s t : State} (h : Reports s t)
include h

theorem Reports.respond (r : Result) (o : Outputs) : Reports s (t.respond r o) := ⟨h.events, h.accesses, h.controller⟩

theorem Reports.record {e : LogEntry} (he : e.isOutside = true) : Reports s (t.record e) := by
  obtain ⟨evs, hlog, hall⟩ := h.events
  exact ⟨⟨evs ++ [e], by simp [hlog], by simp [hall, he]⟩, h.accesses, h.controller⟩

theorem Reports.emitIfChanged (start : State) : Reports s (start.emitIfChanged t) := by
  unfold State.emitIfChanged
  split
  · exact h
  · exact h.record rfl

theorem Reports.recordFrame (f : Option Frame) : Reports s (t.recordFrame f) := by
  cases f with
  | none => exact h
  | some f => exact h.record rfl

theorem Reports.recordTxDone (done : Option Bool) : Reports s (t.recordTxDone done) := by
  cases done with
  | none => exact h
  | some completed => exact h.record rfl

theorem Reports.recordWakeUp (ir : Byte) : Reports s (t.recordWakeUp ir) := by
  unfold State.recordWakeUp
  split
  · exact h.record rfl
  · exact h

end

theorem Reports.refl (s : State) : Reports s s := (PortIdle.refl s).reports

theorem reports_respond (s : State) (r : Result) (o : Outputs) : Reports s (s.respond r o) :=
  (Reports.refl s).respond r o

/-! ### What an operation logs -/

/-- The instructions that act at the controller by other means than accesses: RESET and the seven command bytes. -/
abbrev actingInstrs : List Instr := [.reset, .cmrTr, .cmrSrr, .cmrTrAt, .cmrSrrAt, .cmrAt, .cmrRrb, .cmrCdo]

/-- An instruction makes some accesses inside one chip-select bracket and then reports events; or it makes none and
reports events, or acts at the controller. -/
inductive Performs (i : Instr) (s t : State) : Prop
  | bracket (accs : List LogEntry) (u : State) (hsome : accs ≠ []) (hconv : Conversation s.select accs u)
      (hend : Reports u.deselect t)
  | silent (h : Reports s t)
  | act (c : Controller) (hi : i ∈ actingInstrs) (h : Reports (s.withController c) t)

/-- An operation that accesses the window and concludes, by itself or by the exception. -/
theorem Access.Converses.conclude {α : Type} {i : Instr} {s : State} {a : Access α} {finish : α → State → State}
    (h : a.Converses s.select 1) (hfin : ∀ v u, Reports u.deselect (finish v u)) :
    Performs i s (a.conclude s finish) := by
  obtain ⟨accs, hlength, hconv⟩ := h
  have hsome : accs ≠ [] := List.ne_nil_of_length_pos hlength
  cases a with
  | going v u => exact .bracket accs u hsome hconv (hfin v u)
  | lost u =>
    have hfault : Reports u.deselect (u.withDevFault true).deselect := PortIdle.reports ⟨rfl, rfl, rfl, rfl, rfl⟩
    exact .bracket accs u hsome hconv ((hfault.emitIfChanged s).respond _ _)

theorem transmitWith_performs (i : Instr) (command : Byte) (f : Frame) (s : State) :
    Performs i s (s.transmitWith command f) := by
  unfold State.transmitWith
  split
  · exact .silent (reports_respond s _ _)
  · exact (transmitAccesses_converses command f s.select).conclude fun _ u =>
      ((Reports.refl u.deselect).emitIfChanged s).respond _ _

/-- What every instruction says on the register port. -/
theorem exec_performs (i : Instr) (s : State) : ∃ t, exec i s = .next t ∧ Performs i s t := by
  have hrefuse {i : Instr} (r : Result) (o : Outputs) : Performs i s (s.respond r o) := .silent (reports_respond s r o)
  cases i with
  | transmit f => exact ⟨_, rfl, transmitWith_performs _ _ f s⟩
  | transmitSs f => exact ⟨_, rfl, transmitWith_performs _ _ f s⟩
  | abort =>
    refine ⟨_, rfl, ?_⟩
    split
    · exact hrefuse _ _
    split
    · exact hrefuse _ _
    exact (regWrite_converses 1 0x02 s.select).conclude fun _ u => reports_respond u.deselect _ _
  | tryReceive =>
    refine ⟨_, rfl, ?_⟩
    split
    · exact hrefuse _ _
    split
    · exact hrefuse _ _
    exact (receiveAccesses_converses s.select).conclude fun f u =>
      (((Reports.refl u.deselect).recordFrame f).emitIfChanged s).respond _ _
  | handleInterrupt =>
    refine ⟨_, rfl, ?_⟩
    split
    · exact hrefuse _ _
    exact (interruptAccesses_converses s.select).conclude fun r u =>
      ((((Reports.refl u.deselect).recordTxDone r.2).recordWakeUp r.1).emitIfChanged s).respond _ _
  | txReadback k =>
    refine ⟨_, rfl, ?_⟩
    split
    · exact hrefuse _ _
    split
    · exact hrefuse _ _
    exact (regRead_converses _ s.select).conclude fun _ u => reports_respond u.deselect _ _
  | setMode m =>
    refine ⟨_, rfl, ?_⟩
    split
    · exact hrefuse _ _
    split
    · exact hrefuse _ _
    exact .silent (((portIdle_enterMode s _).reports.emitIfChanged s).respond _ _)
  | ackEvents =>
    have hcleared : PortIdle s ((s.setArbLost false).setBusError false) := ⟨rfl, rfl, rfl, rfl, rfl⟩
    exact ⟨_, rfl, .silent ((hcleared.reports.emitIfChanged s).respond _ _)⟩
  | reset =>
    have hpulse : Reports (s.withController { s.controller with resetRequested := true })
        (s.resetPulse.resetFields.respond .ok .none) := ⟨⟨[.pulse], rfl, rfl⟩, rfl, rfl⟩
    exact ⟨_, rfl, .act _ (by simp) hpulse⟩
  | encode f =>
    refine ⟨_, rfl, ?_⟩
    split <;> exact hrefuse _ _
  | readStatus | decode | decodeEcc | decodeAlc | classify | bufSff | bufEff => exact ⟨_, rfl, hrefuse _ _⟩
  | cmrTr | cmrSrr | cmrTrAt | cmrSrrAt | cmrAt | cmrRrb | cmrCdo => exact ⟨_, rfl, .act _ (by simp) (.refl _)⟩

/-- What an instruction said on the port, from the state it answered. -/
theorem performs_of_exec {i : Instr} {s t : State} (h : exec i s = .next t) : Performs i s t := by
  obtain ⟨u, hu, hperforms⟩ := exec_performs i s
  rw [h] at hu
  injection hu with hu
  exact hu ▸ hperforms

/-! ### Brackets (20_memory.md R68) -/

/-- Some accesses inside one bracket and events after it, or events alone. -/
def BracketedOnce (seg : List LogEntry) : Prop :=
  (∃ accs evs, accs ≠ [] ∧ accs.all LogEntry.isAccess = true ∧ evs.all LogEntry.isOutside = true ∧
      seg = .sel :: (accs ++ .desel :: evs)) ∨
    seg.all LogEntry.isOutside = true

theorem Performs.bracketed {i : Instr} {s t : State} (h : Performs i s t) :
    ∃ seg, t.log = s.log ++ seg ∧ BracketedOnce seg := by
  cases h with
  | bracket accs u hsome hconv hend =>
    obtain ⟨evs, hlog, hall⟩ := hend.events
    have haccs : accs.all LogEntry.isAccess = true := List.all_eq_true.mpr hconv.isAccess
    exact ⟨.sel :: (accs ++ .desel :: evs), by simp [hlog, hconv.log], .inl ⟨accs, evs, hsome, haccs, hall, rfl⟩⟩
  | silent h =>
    obtain ⟨evs, hlog, hall⟩ := h.events
    exact ⟨evs, hlog, .inr hall⟩
  | act c _ h =>
    obtain ⟨evs, hlog, hall⟩ := h.events
    exact ⟨evs, hlog, .inr hall⟩

/-- Settles O54, from what every instruction says on the port. -/
theorem operationsBracketTheirAccesses : Obligations.OperationsBracketTheirAccesses := by
  unfold Obligations.OperationsBracketTheirAccesses
  intro i s
  obtain ⟨t, hexec, hperforms⟩ := exec_performs i s
  obtain ⟨seg, hlog, hseg⟩ := hperforms.bracketed
  exact ⟨t, seg, hexec, hlog, hseg⟩

/-- A log is read entry by entry, so in two parts. -/
theorem bracketFrom_append (level : Bool) (xs ys : List LogEntry) :
    bracketFrom level (xs ++ ys) = (bracketFrom level xs).bind fun b => bracketFrom b ys := by
  induction xs generalizing level with
  | nil => rfl
  | cons e xs ih => cases e <;> cases level <;> simp [bracketFrom, LogEntry.isAccess, ih]

/-- Accesses inside a bracket leave it open. -/
theorem bracketFrom_accesses {accs : List LogEntry} (h : accs.all LogEntry.isAccess = true) :
    bracketFrom true accs = some true := by
  induction accs with
  | nil => rfl
  | cons e accs ih => cases e <;> simp_all [bracketFrom, LogEntry.isAccess]

/-- Events and the pulse open no bracket. -/
theorem bracketFrom_outside {evs : List LogEntry} (h : evs.all LogEntry.isOutside = true) :
    bracketFrom false evs = some false := by
  induction evs with
  | nil => rfl
  | cons e evs ih => cases e <;> simp_all [bracketFrom, LogEntry.isAccess, LogEntry.isOutside]

theorem BracketedOnce.closes {seg : List LogEntry} (h : BracketedOnce seg) : bracketFrom false seg = some false := by
  obtain ⟨accs, evs, -, haccs, hevs, rfl⟩ | hevs := h
  · calc bracketFrom false (.sel :: (accs ++ .desel :: evs))
        = (bracketFrom true accs).bind fun b => bracketFrom b (.desel :: evs) := bracketFrom_append true accs _
      _ = bracketFrom false evs := by rw [bracketFrom_accesses haccs]; rfl
      _ = some false := bracketFrom_outside hevs
  · exact bracketFrom_outside hevs

theorem logBracketed_congr {s t : State} (hlog : t.log = s.log) (h : s.logBracketed) : t.logBracketed := by
  unfold State.logBracketed
  rw [hlog]
  exact h

/-- What is logged in closed brackets keeps a log of closed brackets. -/
theorem logBracketed_append {s t : State} {seg : List LogEntry} (h : s.logBracketed) (hlog : t.log = s.log ++ seg)
    (hseg : BracketedOnce seg) : t.logBracketed := by
  unfold State.logBracketed at h ⊢
  rw [hlog, bracketFrom_append, h]
  exact hseg.closes

/-- Settles O52: taking an input logs nothing, and an instruction logs at most one closed bracket and events. -/
theorem stepKeepsLogBracketed : Obligations.StepKeepsLogBracketed := by
  unfold Obligations.StepKeepsLogBracketed
  intro s t h hstep
  obtain ⟨u, hu, rfl | rfl | ⟨i, hexec, -⟩⟩ := step_cases hstep
  · exact logBracketed_congr hu.log h
  · exact logBracketed_congr hu.log h
  · obtain ⟨seg, hlog, hseg⟩ := (performs_of_exec hexec).bracketed
    exact logBracketed_append h (by rw [hlog, hu.log]) hseg

/-! ### Answers (20_memory.md R65, R66, R69, R70) -/

/-- No access stands outside a bracket. -/
theorem LogEntry.not_isAccess_of_isOutside {e : LogEntry} (h : e.isOutside = true) : ¬ e.isAccess = true := by
  cases e <;> simp_all [LogEntry.isOutside, LogEntry.isAccess]

theorem filter_isAccess_of_outside {evs : List LogEntry} (h : evs.all LogEntry.isOutside = true) :
    evs.filter LogEntry.isAccess = [] :=
  List.filter_eq_nil_iff.mpr fun e he => LogEntry.not_isAccess_of_isOutside (List.all_eq_true.mp h e he)

/-- The accesses of an instruction, found in what it logged: they are counted, agree with their answers, and make all
that an instruction other than RESET and the command bytes does at the controller. -/
theorem Performs.answered {i : Instr} {s t : State} (h : Performs i s t) :
    ∃ seg, t.log = s.log ++ seg ∧ t.accesses = s.accesses + (seg.filter LogEntry.isAccess).length ∧
      EachAnswered s (seg.filter LogEntry.isAccess) ∧
      (i ∉ actingInstrs →
        t.controller = s.controller.afterEntries s.params.passiveLimit (seg.filter LogEntry.isAccess)) := by
  cases h with
  | bracket accs u _ hconv hend =>
    obtain ⟨evs, hlog, hall⟩ := hend.events
    have haccs : (LogEntry.sel :: (accs ++ .desel :: evs)).filter LogEntry.isAccess = accs := by
      have hself : accs.filter LogEntry.isAccess = accs := List.filter_eq_self.mpr hconv.isAccess
      simp [LogEntry.isAccess, hself, filter_isAccess_of_outside hall]
    refine ⟨.sel :: (accs ++ .desel :: evs), by simp [hlog, hconv.log], ?_⟩
    rw [haccs]
    exact ⟨hend.accesses.trans hconv.accesses, hconv.agrees, fun _ => hend.controller.trans hconv.controller⟩
  | silent h =>
    obtain ⟨evs, hlog, hall⟩ := h.events
    refine ⟨evs, hlog, ?_⟩
    rw [filter_isAccess_of_outside hall]
    exact ⟨h.accesses, eachAnswered_nil s, fun _ => h.controller⟩
  | act c hi h =>
    obtain ⟨evs, hlog, hall⟩ := h.events
    refine ⟨evs, hlog, ?_⟩
    rw [filter_isAccess_of_outside hall]
    exact ⟨h.accesses, eachAnswered_nil s, fun hn => absurd hi hn⟩

/-- Settles O56, from the conversation of every instruction with the controller. -/
theorem everyAccessGetsItsAnswer : Obligations.EveryAccessGetsItsAnswer := by
  unfold Obligations.EveryAccessGetsItsAnswer
  intro i s
  obtain ⟨t, hexec, hperforms⟩ := exec_performs i s
  obtain ⟨seg, hlog, haccesses, hagrees, hcontroller⟩ := hperforms.answered
  refine ⟨t, seg, hexec, hlog, haccesses, hagrees, fun hi => ?_⟩
  simpa only [List.take_length] using hcontroller hi

end Sys2Proof.Machine
end

section
/-! The three ports' words (30_encoding.md R90 to R102, R110): which words decode, to which instruction, and that the
encoder gives the word back. -/

namespace Sys2Proof.Machine

/-! ### Command words (30_encoding.md R90, R92, R93) -/

/-- A word with RSV = 0000 is its own opcode. -/
theorem toNat_opcode {w : Byte} (h : w.toNat < 16) : (w.extractLsb' 0 4).toNat = w.toNat := by
  rw [BitVec.extractLsb'_toNat, Nat.shiftRight_zero]
  omega

theorem reserved_bits_zero_iff (w : Byte) : w.extractLsb' 4 4 = 0#4 ↔ w.toNat < 16 := by
  have hw := w.isLt
  rw [← BitVec.toNat_inj, BitVec.extractLsb'_toNat, Nat.shiftRight_eq_div_pow, BitVec.toNat_ofNat]
  omega

/-- Opcode 0 has no row. -/
theorem commandOf_zero (l : OperandLines) : commandOf 0#4 l = none := rfl

theorem decodeCommand_eq_ok_iff {w : Byte} {l : OperandLines} {i : Instr} :
    decodeCommand w l = .ok i ↔ w.toNat < 16 ∧ commandOf (w.extractLsb' 0 4) l = some i := by
  unfold decodeCommand
  rw [ite_not, ← reserved_bits_zero_iff]
  split
  · rename_i hrsv
    cases commandOf (w.extractLsb' 0 4) l <;> simp [hrsv]
  · rename_i hrsv
    simp [hrsv]

/-- The 241 illegal words: those with a reserved bit set, and the opcode 0. -/
theorem decodeCommand_of_illegal {w : Byte} (h : w.toNat = 0 ∨ 16 ≤ w.toNat) (l : OperandLines) :
    decodeCommand w l = .error (.illegalCommand w) := by
  unfold decodeCommand
  rw [ite_not]
  split
  · rename_i hrsv
    have hlt := (reserved_bits_zero_iff w).mp hrsv
    have hop : w.extractLsb' 0 4 = 0#4 := BitVec.eq_of_toNat_eq (by rw [toNat_opcode hlt, BitVec.toNat_ofNat]; omega)
    rw [hop, commandOf_zero]
  · rfl

/-- The opcode map as the list of its rows, the row of opcode 1 first. -/
def commandRows (l : OperandLines) : List Instr :=
  [.transmit l.frameIn, .transmitSs l.frameIn, .abort, .tryReceive, .handleInterrupt, .setMode l.modeIn, .ackEvents,
    .readStatus, .reset, .encode l.frameIn, .decode l.imageIn, .decodeEcc l.byteIn, .decodeAlc l.byteIn,
    .classify l.clsSr l.clsEwlr l.clsRxerr l.clsTxerr, .txReadback l.indexIn]

theorem commandOf_eq_row {op : BitVec 4} (h : 1 ≤ op.toNat) (l : OperandLines) :
    commandOf op l = (commandRows l)[op.toNat - 1]? := by
  have hop := op.isLt
  unfold commandOf
  generalize op.toNat = n at h hop ⊢
  interval_cases n <;> rfl

/-- Settles O1: the map's rows for the words below 16, and the refusal of the others. -/
theorem commandDecodesExactlyFifteenWords : Obligations.CommandDecodesExactlyFifteenWords := by
  unfold Obligations.CommandDecodesExactlyFifteenWords
  refine fun w l => ⟨fun ⟨hone, hfifteen⟩ => ?_, fun h => decodeCommand_of_illegal h l⟩
  have hop : (w.extractLsb' 0 4).toNat = w.toNat := toNat_opcode (by omega)
  have hlen : w.toNat - 1 < (commandRows l).length := by
    simp only [commandRows, List.length_cons, List.length_nil]
    omega
  have hrow : commandOf (w.extractLsb' 0 4) l = some (commandRows l)[w.toNat - 1] := by
    rw [commandOf_eq_row (by omega), hop, List.getElem?_eq_getElem hlen]
  exact ⟨_, List.getElem?_eq_getElem hlen, decodeCommand_eq_ok_iff.mpr ⟨by omega, hrow⟩⟩

/-- The encoder gives an opcode's instruction the word of that opcode. -/
theorem encode_of_commandOf {op : BitVec 4} {l : OperandLines} {i : Instr} (h : commandOf op l = some i) :
    ∃ l', encode i = .command (op.setWidth 8) l' := by
  unfold commandOf at h
  split at h
  case h_16 => cases h
  all_goals
    rename_i hop
    cases h
    exact ⟨_, congrArg (Packet.command · _) (BitVec.eq_of_toNat_eq (by rw [BitVec.toNat_setWidth, hop]; rfl))⟩

theorem encode_of_decodeCommand {w : Byte} {l : OperandLines} {i : Instr} (h : decodeCommand w l = .ok i) :
    ∃ l', encode i = .command w l' := by
  obtain ⟨hlt, hop⟩ := decodeCommand_eq_ok_iff.mp h
  have hword : (w.extractLsb' 0 4).setWidth 8 = w := by
    apply BitVec.eq_of_toNat_eq
    rw [BitVec.toNat_setWidth, toNat_opcode hlt]
    omega
  exact hword ▸ encode_of_commandOf hop

/-! ### Command bytes (30_encoding.md R100, R102) -/

theorem encode_of_decodeCmr {b : Byte} {i : Instr} (h : decodeCmr b = .ok i) : encode i = .cmr b := by
  unfold decodeCmr at h
  split at h
  case h_8 => cases h
  all_goals
    rename_i hb
    cases h
    exact congrArg Packet.cmr (BitVec.eq_of_toNat_eq hb.symm)

/-- The seven command bytes. -/
def commandBytes : List Byte :=
  [0b00000001, 0b00000010, 0b00000011, 0b00000100, 0b00001000, 0b00010000, 0b00010010]

/-- Seven instructions have a packet of the CMR port, each its own command byte. -/
theorem mem_commandBytes_of_encode {b : Byte} {i : Instr} (h : encode i = .cmr b) : b ∈ commandBytes := by
  cases i <;> cases h <;> decide

/-- A byte that is none of the seven is reserved. -/
theorem decodeCmr_of_not_mem {b : Byte} (h : b ∉ commandBytes) : decodeCmr b = .error (.reservedCmrByte b) := by
  cases hdec : decodeCmr b with
  | ok i => exact absurd (mem_commandBytes_of_encode (encode_of_decodeCmr hdec)) h
  | error r =>
    unfold decodeCmr at hdec
    split at hdec <;> cases hdec
    rfl

/-- Settles O5: what the two decoders refuse, put through one step. -/
theorem rejectedWordsRunNothing : Obligations.RejectedWordsRunNothing := by
  unfold Obligations.RejectedWordsRunNothing
  refine fun s rest => ⟨fun w l hin hw => ?_, fun b bs hin hreset hlatch hb => ?_⟩
  · simp only [step, fetch_command hin, fetchedOf, decode, decodeCommand_of_illegal hw]
    rfl
  · simp only [step, fetch_controller_latch hin hreset hlatch, fetchedOf, decode, decodeCmr_of_not_mem hb]

/-! ### Frame-info bytes (30_encoding.md R110) -/

section
variable (ff rtr : Bool) (unused : BitVec 2) (dlc : BitVec 4)

theorem frameInfoByte_ff : (frameInfoByte ff rtr unused dlc).getLsbD 7 = ff := by
  simp only [frameInfoByte, BitVec.getLsbD_append]
  simp

theorem frameInfoByte_rtr : (frameInfoByte ff rtr unused dlc).getLsbD 6 = rtr := by
  simp only [frameInfoByte, BitVec.getLsbD_append]
  simp

theorem frameInfoByte_unused : (frameInfoByte ff rtr unused dlc).extractLsb' 4 2 = unused := by
  rw [frameInfoByte, BitVec.extractLsb'_append_eq_of_le (Nat.le_refl 4)]
  exact BitVec.extractLsb'_append_eq_right

theorem frameInfoByte_dlc : (frameInfoByte ff rtr unused dlc).extractLsb' 0 4 = dlc :=
  BitVec.extractLsb'_append_eq_right

end

/-- A frame-info byte is made of its four fields. -/
theorem frameInfoByte_fields (info : Byte) :
    frameInfoByte (info.getLsbD 7) (info.getLsbD 6) (info.extractLsb' 4 2) (info.extractLsb' 0 4) = info := by
  have hbit (k : Nat) : BitVec.ofBool (info.getLsbD k) = info.extractLsb' k 1 := by
    ext j hj
    obtain rfl : j = 0 := by omega
    simp
  have happend {i j m n : Nat} (h : i = j + n) :
      info.extractLsb' i m ++ info.extractLsb' j n = info.extractLsb' j (m + n) :=
    BitVec.extractLsb'_append_extractLsb'_eq_extractLsb' h
  rw [frameInfoByte, hbit, hbit, happend (by omega), happend (by omega), happend (by omega)]
  exact BitVec.extractLsb'_eq_self

theorem decodeFrameInfo_sff (rtr : Bool) (unused : BitVec 2) (dlc : BitVec 4) (rest : Vector Byte 12) :
    decodeFrameInfo (frameInfoByte false rtr unused dlc) rest = .bufSff rtr unused dlc rest := by
  simp only [decodeFrameInfo, frameInfoByte_ff, frameInfoByte_rtr, frameInfoByte_unused, frameInfoByte_dlc,
    Bool.false_eq_true, if_false]

theorem decodeFrameInfo_eff (rtr : Bool) (unused : BitVec 2) (dlc : BitVec 4) (rest : Vector Byte 12) :
    decodeFrameInfo (frameInfoByte true rtr unused dlc) rest = .bufEff rtr unused dlc rest := by
  simp only [decodeFrameInfo, frameInfoByte_ff, frameInfoByte_rtr, frameInfoByte_unused, frameInfoByte_dlc, if_true]

theorem encode_decodeFrameInfo (info : Byte) (rest : Vector Byte 12) :
    encode (decodeFrameInfo info rest) = .image info rest := by
  have hfields := frameInfoByte_fields info
  unfold decodeFrameInfo
  split
  · rename_i hff
    rw [hff] at hfields
    exact congrArg (Packet.image · rest) hfields
  · rename_i hff
    rw [Bool.eq_false_of_not_eq_true hff] at hfields
    exact congrArg (Packet.image · rest) hfields

/-! ### All ports -/

/-- An instruction is decoded from its own packet: a fixed word is looked up in its port's table, a frame-info byte
read field by field. -/
theorem decode_encode (i : Instr) : decode (encode i) = .ok i := by
  cases i with
  | bufSff rtr unused dlc rest => exact congrArg Except.ok (decodeFrameInfo_sff rtr unused dlc rest)
  | bufEff rtr unused dlc rest => exact congrArg Except.ok (decodeFrameInfo_eff rtr unused dlc rest)
  | _ => rfl

/-- Settles O3, port by port. -/
theorem decodeAndEncodeAgree : Obligations.DecodeAndEncodeAgree := by
  unfold Obligations.DecodeAndEncodeAgree
  refine ⟨decode_encode, fun w l i h => encode_of_decodeCommand h, fun b i h => encode_of_decodeCmr h, ?_⟩
  intro info rest i h
  cases h
  exact encode_decodeFrameInfo info rest

/-- Settles O2: a command word is looked up whatever the operand lines hold; the other words are encoded ones. -/
theorem tableWordsDecode : Obligations.TableWordsDecode := by
  unfold Obligations.TableWordsDecode
  exact ⟨fun l => ⟨rfl, rfl, rfl, rfl, rfl⟩, decode_encode .cmrSrrAt, decode_encode .cmrCdo,
    fun rest => decode_encode (.bufSff true 0 7 rest), fun rest => decode_encode (.bufEff false 3 8 rest)⟩

end Sys2Proof.Machine
end

section
/-! The frame decoder, field by field (30_encoding.md R110 to R115, R134; 40_frame_codec.md R148, R152): its frame for
each format, which bits it looks at, and the buffer images read as instructions. -/

namespace Sys2Proof.Machine

/-! ### The fields of the decoded frame -/

theorem clampDlc_toNat (dlc : BitVec 4) : (clampDlc dlc).toNat = min dlc.toNat 8 := by
  unfold clampDlc
  split
  · rw [BitVec.toNat_ofNat]
    omega
  · omega

theorem clampDlc_eq_ofNat (dlc : BitVec 4) : clampDlc dlc = BitVec.ofNat 4 (min dlc.toNat 8) := by
  rw [← clampDlc_toNat, BitVec.ofNat_toNat, BitVec.setWidth_eq]

/-- An SFF image: identifier in bytes 1 and 2, data from byte 3 on (30_encoding.md R111, R113). -/
theorem decodeWith_of_sff {read : Nat → Byte} (h : (read 0).getLsbD 7 = false) :
    decodeWith read =
      { fmt := .std, id := (read 1 ++ (read 2).extractLsb' 5 3).toNat, rtr := (read 0).getLsbD 6,
        dlc := clampDlc ((read 0).extractLsb' 0 4), data := (List.range' 3 (dataLength (read 0))).map read } := by
  have hids : restIndices (read 0) = 1 :: 2 :: List.range' 3 (dataLength (read 0)) := by
    simp only [restIndices, idLength, h, Bool.false_eq_true, if_false, Nat.add_comm 2]
    rfl
  simp only [decodeWith, frameOf, hids, h, Bool.false_eq_true, if_false]
  rfl

/-- An EFF image: identifier in bytes 1 to 4, data from byte 5 on (30_encoding.md R112, R113). -/
theorem decodeWith_of_eff {read : Nat → Byte} (h : (read 0).getLsbD 7 = true) :
    decodeWith read =
      { fmt := .ext, id := (read 1 ++ read 2 ++ read 3 ++ (read 4).extractLsb' 3 5).toNat, rtr := (read 0).getLsbD 6,
        dlc := clampDlc ((read 0).extractLsb' 0 4), data := (List.range' 5 (dataLength (read 0))).map read } := by
  have hids : restIndices (read 0) = 1 :: 2 :: 3 :: 4 :: List.range' 5 (dataLength (read 0)) := by
    simp only [restIndices, idLength, h, if_true, Nat.add_comm 4]
    rfl
  simp only [decodeWith, frameOf, hids, h, if_true]
  rfl

/-! ### Bits the decoder ignores (30_encoding.md R134) -/

theorem getLsbD_eq_of_and_eq {n k : Nat} {x y mask : BitVec n} (h : x &&& mask = y &&& mask)
    (hk : mask.getLsbD k = true) : x.getLsbD k = y.getLsbD k := by
  simpa only [BitVec.getLsbD_and, hk, Bool.and_true] using congrArg (BitVec.getLsbD · k) h

theorem extractLsb'_eq_of_and_eq {n k len : Nat} {x y mask : BitVec n} (h : x &&& mask = y &&& mask)
    (hk : mask.extractLsb' k len = BitVec.allOnes len) : x.extractLsb' k len = y.extractLsb' k len := by
  simpa only [BitVec.extractLsb'_and, hk, BitVec.and_allOnes] using congrArg (BitVec.extractLsb' k len) h

/-- Settles O10: the decoder takes the frame-info fields and the top bits of the last identifier byte, and every other
byte it reads lies within the image length. -/
theorem decoderIgnoresUnassignedBits : Obligations.DecoderIgnoresUnassignedBits := by
  unfold Obligations.DecoderIgnoresUnassignedBits
  intro img img' hinfo hbytes hlast
  have hff : (imageByte img 0).getLsbD 7 = (imageByte img' 0).getLsbD 7 := getLsbD_eq_of_and_eq hinfo rfl
  have hrtr : (imageByte img 0).getLsbD 6 = (imageByte img' 0).getLsbD 6 := getLsbD_eq_of_and_eq hinfo rfl
  have hdlc : (imageByte img 0).extractLsb' 0 4 = (imageByte img' 0).extractLsb' 0 4 :=
    extractLsb'_eq_of_and_eq hinfo rfl
  have hdata : dataLength (imageByte img 0) = dataLength (imageByte img' 0) := by
    simp only [dataLength, hrtr, hdlc]
  have hmap : (List.range' (1 + idLength (imageByte img 0)) (dataLength (imageByte img 0))).map (imageByte img)
      = (List.range' (1 + idLength (imageByte img 0)) (dataLength (imageByte img 0))).map (imageByte img') :=
    List.map_congr_left fun k hk => by
      have hk := List.mem_range'_1.mp hk
      exact hbytes k (by omega) hk.2 (by omega)
  unfold decodeImage
  cases hfmt : (imageByte img 0).getLsbD 7 with
  | false =>
    simp only [imageLength, idLength, hfmt, Bool.false_eq_true, if_false, Nat.reduceAdd] at hbytes hlast hmap
    have hid : (imageByte img 2).extractLsb' 5 3 = (imageByte img' 2).extractLsb' 5 3 :=
      extractLsb'_eq_of_and_eq hlast rfl
    rw [decodeWith_of_sff hfmt, decodeWith_of_sff (hff ▸ hfmt), hmap, hid, hrtr, hdlc, hdata,
      hbytes 1 (by omega) (by omega) (by omega)]
  | true =>
    simp only [imageLength, idLength, hfmt, if_true, Nat.reduceAdd] at hbytes hlast hmap
    have hid : (imageByte img 4).extractLsb' 3 5 = (imageByte img' 4).extractLsb' 3 5 :=
      extractLsb'_eq_of_and_eq hlast rfl
    rw [decodeWith_of_eff hfmt, decodeWith_of_eff (hff ▸ hfmt), hmap, hid, hrtr, hdlc, hdata,
      hbytes 1 (by omega) (by omega) (by omega), hbytes 2 (by omega) (by omega) (by omega),
      hbytes 3 (by omega) (by omega) (by omega)]

/-! ### Buffer images as instructions (30_encoding.md R110 to R115; log 9) -/

theorem toNat_append_eq_mul_add {m n : Nat} (x : BitVec m) (y : BitVec n) :
    (x ++ y).toNat = x.toNat * 2 ^ n + y.toNat := by
  rw [BitVec.toNat_append, ← Nat.shiftLeft_add_eq_or_of_lt y.isLt, Nat.shiftLeft_eq]

/-- The identifier of an SFF image as a number (30_encoding.md R115). -/
theorem toNat_idStd (b c : Byte) : (b ++ c.extractLsb' 5 3).toNat = b.toNat * 8 + c.toNat / 32 := by
  have hc := c.isLt
  rw [toNat_append_eq_mul_add, BitVec.extractLsb'_toNat, Nat.shiftRight_eq_div_pow]
  omega

/-- The identifier of an EFF image as a number (30_encoding.md R115). -/
theorem toNat_idExt (b c d e : Byte) : (b ++ c ++ d ++ e.extractLsb' 3 5).toNat =
    b.toNat * 2 ^ 21 + c.toNat * 2 ^ 13 + d.toNat * 2 ^ 5 + e.toNat / 8 := by
  have he := e.isLt
  rw [toNat_append_eq_mul_add, toNat_append_eq_mul_add, toNat_append_eq_mul_add, BitVec.extractLsb'_toNat,
    Nat.shiftRight_eq_div_pow]
  omega

theorem imageFrom_zero (info : Byte) (rest : Vector Byte 12) : imageFrom info rest 0 = info := rfl

theorem imageFrom_succ (info : Byte) (rest : Vector Byte 12) {k : Nat} (h : k < 12) :
    imageFrom info rest (k + 1) = rest[k] := by
  simp only [imageFrom, Vector.getElem?_eq_getElem h, Option.getD_some]

/-- A run of bytes of an image, as a part of the bytes after its frame-info byte. -/
theorem map_imageFrom_range' (info : Byte) (rest : Vector Byte 12) {k n : Nat} (h : k + n ≤ 12) :
    (List.range' (k + 1) n).map (imageFrom info rest) = (rest.toList.drop k).take n := by
  apply List.ext_getElem
  · simp only [List.length_map, List.length_range', List.length_take, List.length_drop, Vector.length_toList]
    omega
  · intro j hj _
    simp only [List.length_map, List.length_range'] at hj
    have hindex : k + 1 + 1 * j = k + j + 1 := by omega
    rw [List.getElem_map, List.getElem_range', hindex, imageFrom_succ info rest (by omega)]
    simp

/-- The data of a buffer image whose data base is `k + 1` (30_encoding.md R113, R114). -/
theorem data_of_image (ff rtr : Bool) (unused : BitVec 2) (dlc : BitVec 4) (rest : Vector Byte 12) {k : Nat}
    (h : k ≤ 4) : (List.range' (k + 1) (dataLength (frameInfoByte ff rtr unused dlc))).map
      (imageFrom (frameInfoByte ff rtr unused dlc) rest) =
    if rtr then [] else (rest.toList.drop k).take (min dlc.toNat 8) := by
  rw [dataLength, frameInfoByte_rtr, frameInfoByte_dlc, clampDlc_toNat]
  split
  · rfl
  · exact map_imageFrom_range' _ rest (by omega)

theorem decodeWith_imageFrom_sff (rtr : Bool) (unused : BitVec 2) (dlc : BitVec 4) (rest : Vector Byte 12) :
    decodeWith (imageFrom (frameInfoByte false rtr unused dlc) rest) =
      { fmt := .std, id := rest[0].toNat * 8 + rest[1].toNat / 32, rtr := rtr,
        dlc := BitVec.ofNat 4 (min dlc.toNat 8),
        data := if rtr then [] else (rest.toList.drop 2).take (min dlc.toNat 8) } := by
  rw [decodeWith_of_sff (by rw [imageFrom_zero, frameInfoByte_ff]), imageFrom_zero,
    data_of_image _ _ _ _ _ (by omega), toNat_idStd, imageFrom_succ _ _ (by omega), imageFrom_succ _ _ (by omega),
    frameInfoByte_rtr, frameInfoByte_dlc, clampDlc_eq_ofNat]

theorem decodeWith_imageFrom_eff (rtr : Bool) (unused : BitVec 2) (dlc : BitVec 4) (rest : Vector Byte 12) :
    decodeWith (imageFrom (frameInfoByte true rtr unused dlc) rest) =
      { fmt := .ext,
        id := rest[0].toNat * 2 ^ 21 + rest[1].toNat * 2 ^ 13 + rest[2].toNat * 2 ^ 5 + rest[3].toNat / 8, rtr := rtr,
        dlc := BitVec.ofNat 4 (min dlc.toNat 8),
        data := if rtr then [] else (rest.toList.drop 4).take (min dlc.toNat 8) } := by
  rw [decodeWith_of_eff (by rw [imageFrom_zero, frameInfoByte_ff]), imageFrom_zero,
    data_of_image _ _ _ _ _ (by omega), toNat_idExt, imageFrom_succ _ _ (by omega), imageFrom_succ _ _ (by omega),
    imageFrom_succ _ _ (by omega), imageFrom_succ _ _ (by omega),
    frameInfoByte_rtr, frameInfoByte_dlc, clampDlc_eq_ofNat]

/-- A buffer image answers its frame and changes nothing else. -/
theorem readImage_eq (s : State) (info : Byte) (rest : Vector Byte 12) : s.readImage info rest =
    { s with response := some { result := .ok, outs := .frame (some (decodeWith (imageFrom info rest))) } } := rfl

theorem exec_bufSff (rtr : Bool) (unused : BitVec 2) (dlc : BitVec 4) (rest : Vector Byte 12) (s : State) :
    exec (.bufSff rtr unused dlc rest) s = .next (s.readImage (frameInfoByte false rtr unused dlc) rest) := rfl

theorem exec_bufEff (rtr : Bool) (unused : BitVec 2) (dlc : BitVec 4) (rest : Vector Byte 12) (s : State) :
    exec (.bufEff rtr unused dlc rest) s = .next (s.readImage (frameInfoByte true rtr unused dlc) rest) := rfl

/-- Settles O13, from the frame of each format. -/
theorem bufferFormatsComplete : Obligations.BufferFormatsComplete := by
  unfold Obligations.BufferFormatsComplete
  intro rtr unused dlc rest s
  constructor
  · rw [exec_bufSff, readImage_eq, decodeWith_imageFrom_sff]
  · rw [exec_bufEff, readImage_eq, decodeWith_imageFrom_eff]

end Sys2Proof.Machine
end

section
/-! The frame codec (40_frame_codec.md): the layout the encoder lists (R143), what an image that holds it decodes to
(R156), and what every decoded frame is (R148, R152, R155). -/

namespace Sys2Proof.Machine

/-! ### Well-formed frames (40_frame_codec.md R141) -/

theorem frameWf_iff {f : Frame} : frameWf f = true ↔
    (f.fmt = .std → f.id < 2 ^ 11) ∧ (f.fmt = .ext → f.id < 2 ^ 29) ∧ f.dlc.toNat ≤ 8 ∧
      f.data.length = if f.rtr then 0 else f.dlc.toNat := by
  simp only [frameWf, wfIdStd, wfIdExt, wfDlc, wfData, wfRtr, Bool.and_eq_true, decide_eq_true_eq, and_assoc]
  cases f.rtr <;> simp

/-- A well-formed frame puts all its data into the buffer: a remote frame has none. -/
theorem txData_of_wf {f : Frame} (hwf : frameWf f = true) : txData f = f.data := by
  obtain ⟨-, -, -, hdata⟩ := frameWf_iff.mp hwf
  unfold txData
  split
  · rename_i hrtr
    rw [if_pos hrtr] at hdata
    exact (List.length_eq_zero_iff.mp hdata).symm
  · rename_i hrtr
    rw [if_neg hrtr] at hdata
    exact List.take_of_length_le hdata.le

/-! ### The bytes of the encoder (40_frame_codec.md R143) -/

/-- The bytes of `TxImage` without their indices. -/
def txBytes (f : Frame) : List Byte := frameInfo f :: (idBytes f ++ txData f)

theorem indexFrom_eq_map_zipIdx (n : Nat) (bs : List Byte) : indexFrom n bs = (bs.zipIdx n).map Prod.swap := by
  induction bs generalizing n with
  | nil => rfl
  | cons b bs ih => rw [indexFrom, ih, List.zipIdx_cons, List.map_cons, Prod.swap_prod_mk]

theorem txImage_eq (f : Frame) : txImage f = (txBytes f).zipIdx.map Prod.swap := indexFrom_eq_map_zipIdx 0 _

theorem txImage_map_snd (f : Frame) : (txImage f).map Prod.snd = txBytes f := by
  rw [txImage_eq, List.map_map]
  exact List.zipIdx_map_fst 0 _

/-- The indices are consecutive and start at 0. -/
theorem txImage_map_fst (f : Frame) : (txImage f).map Prod.fst = List.range (txBytes f).length := by
  rw [txImage_eq, List.map_map, List.range_eq_range']
  exact List.zipIdx_map_snd 0 _

/-- Buffer index `k` of `TxImage` holds byte `k` of its bytes. -/
theorem mem_txImage_iff {f : Frame} {k : Nat} {b : Byte} : (k, b) ∈ txImage f ↔ (txBytes f)[k]? = some b := by
  rw [txImage_eq, List.mem_map_swap, List.mk_mem_zipIdx_iff_getElem?]

theorem frameInfo_eq (f : Frame) : frameInfo f = frameInfoByte (f.fmt == .ext) f.rtr 0 f.dlc := rfl

theorem frameInfoByte_toNat (ff rtr : Bool) (unused : BitVec 2) (dlc : BitVec 4) :
    (frameInfoByte ff rtr unused dlc).toNat = ff.toNat * 128 + rtr.toNat * 64 + unused.toNat * 16 + dlc.toNat := by
  simp only [frameInfoByte, toNat_append_eq_mul_add, BitVec.toNat_ofBool]
  omega

/-- An 11-bit identifier is split into two bytes, the most significant first (30_encoding.md R111, R115). -/
theorem idBytes_std {f : Frame} (hfmt : f.fmt = .std) (hid : f.id < 2 ^ 11) :
    ∃ b c : Byte, idBytes f = [b, c] ∧ b.toNat = f.id / 8 ∧ c.toNat = f.id % 8 * 32 := by
  simp only [idBytes, hfmt]
  refine ⟨_, _, rfl, ?_, ?_⟩
  · rw [BitVec.extractLsb'_toNat, BitVec.toNat_ofNat, Nat.shiftRight_eq_div_pow]
    omega
  · rw [toNat_append_eq_mul_add, BitVec.extractLsb'_toNat, BitVec.toNat_ofNat, BitVec.toNat_ofNat,
      Nat.shiftRight_eq_div_pow]
    omega

/-- A 29-bit identifier is split into four bytes, the most significant first (30_encoding.md R112, R115). -/
theorem idBytes_ext {f : Frame} (hfmt : f.fmt = .ext) (hid : f.id < 2 ^ 29) :
    ∃ b c d e : Byte, idBytes f = [b, c, d, e] ∧ b.toNat = f.id / 2 ^ 21 ∧ c.toNat = f.id / 2 ^ 13 % 256 ∧
      d.toNat = f.id / 2 ^ 5 % 256 ∧ e.toNat = f.id % 32 * 8 := by
  simp only [idBytes, hfmt]
  refine ⟨_, _, _, _, rfl, ?_, ?_, ?_, ?_⟩
  case refine_4 =>
    rw [toNat_append_eq_mul_add, BitVec.extractLsb'_toNat, BitVec.toNat_ofNat, BitVec.toNat_ofNat,
      Nat.shiftRight_eq_div_pow]
    omega
  all_goals
    rw [BitVec.extractLsb'_toNat, BitVec.toNat_ofNat, Nat.shiftRight_eq_div_pow]
    omega

theorem idBytes_length (f : Frame) : (idBytes f).length = if f.fmt = .ext then 4 else 2 := by
  unfold idBytes
  cases f.fmt <;> rfl

theorem txBytes_length {f : Frame} (hwf : frameWf f = true) :
    (txBytes f).length = 1 + (if f.fmt = .ext then 4 else 2) + (if f.rtr then 0 else f.dlc.toNat) := by
  obtain ⟨-, -, -, hdata⟩ := frameWf_iff.mp hwf
  rw [txBytes, List.length_cons, List.length_append, idBytes_length, txData_of_wf hwf, hdata]
  omega

/-- The identifier bytes as numbers, in both formats. -/
theorem map_toNat_idBytes {f : Frame} (hwf : frameWf f = true) : (idBytes f).map BitVec.toNat =
    if f.fmt = .ext then [f.id / 2 ^ 21, f.id / 2 ^ 13 % 256, f.id / 2 ^ 5 % 256, f.id % 32 * 8]
    else [f.id / 8, f.id % 8 * 32] := by
  obtain ⟨hstd, hext, -, -⟩ := frameWf_iff.mp hwf
  cases hfmt : f.fmt with
  | std =>
    obtain ⟨b, c, hbytes, hb, hc⟩ := idBytes_std hfmt (hstd hfmt)
    simp [hbytes, hb, hc]
  | ext =>
    obtain ⟨b, c, d, e, hbytes, hb, hc, hd, he⟩ := idBytes_ext hfmt (hext hfmt)
    simp [hbytes, hb, hc, hd, he]

theorem toNat_frameInfo (f : Frame) : (frameInfo f).toNat =
    (if f.fmt = .ext then 128 else 0) + (if f.rtr then 64 else 0) + f.dlc.toNat := by
  rw [frameInfo_eq, frameInfoByte_toNat]
  cases f.fmt <;> cases f.rtr <;> simp

/-- Settles O6: the indices are those of a list counted from 0, and its bytes are the three parts of the layout. -/
theorem txImageListsTheLayout : Obligations.TxImageListsTheLayout := by
  unfold Obligations.TxImageListsTheLayout
  intro f hwf
  have hindices : (txImage f).map Prod.fst =
      List.range (1 + (if f.fmt = .ext then 4 else 2) + (if f.rtr then 0 else f.dlc.toNat)) := by
    rw [txImage_map_fst, txBytes_length hwf]
  refine ⟨hindices, ?_, ?_⟩
  · obtain ⟨-, -, hdlc, -⟩ := frameWf_iff.mp hwf
    rw [← List.length_map (f := Prod.fst), hindices, List.length_range]
    split <;> split <;> omega
  · have hbytes : (txImage f).map (fun p => p.2.toNat) = (txBytes f).map BitVec.toNat := by
      rw [← txImage_map_snd, List.map_map]
      rfl
    rw [hbytes, txBytes, List.map_cons, List.map_append, toNat_frameInfo, map_toNat_idBytes hwf, txData_of_wf hwf]

/-! ### The decoded frame (40_frame_codec.md R148, R152) -/

theorem getLsbD_seven_iff (info : Byte) : info.getLsbD 7 = true ↔ 128 ≤ info.toNat := by
  have hlt := info.isLt
  rw [BitVec.getLsbD, Nat.testBit_eq_decide_div_mod_eq, decide_eq_true_eq]
  omega

theorem getLsbD_six_iff (info : Byte) : info.getLsbD 6 = true ↔ info.toNat / 64 % 2 = 1 := by
  rw [BitVec.getLsbD, Nat.testBit_eq_decide_div_mod_eq, decide_eq_true_eq]

theorem clampDlc_of_le {dlc : BitVec 4} (h : dlc.toNat ≤ 8) : clampDlc dlc = dlc := if_neg (by omega)

/-- The decoded frame, for both formats at once. -/
theorem decodeWith_eq (read : Nat → Byte) : decodeWith read =
    { fmt := if (read 0).getLsbD 7 then .ext else .std,
      id := if (read 0).getLsbD 7 then
          (read 1).toNat * 2 ^ 21 + (read 2).toNat * 2 ^ 13 + (read 3).toNat * 2 ^ 5 + (read 4).toNat / 8
        else (read 1).toNat * 8 + (read 2).toNat / 32,
      rtr := (read 0).getLsbD 6,
      dlc := clampDlc ((read 0).extractLsb' 0 4),
      data := (List.range' (1 + idLength (read 0)) (dataLength (read 0))).map read } := by
  unfold idLength
  cases hff : (read 0).getLsbD 7 with
  | false => rw [decodeWith_of_sff hff, toNat_idStd]; rfl
  | true => rw [decodeWith_of_eff hff, toNat_idExt]; rfl

/-- Every decoded frame is well-formed: its identifier is made of 11 or 29 bits, its length is clamped, and as many data
bytes are read. -/
theorem frameWf_decodeWith (read : Nat → Byte) : frameWf (decodeWith read) = true := by
  have h1 := (read 1).isLt
  have h2 := (read 2).isLt
  have h3 := (read 3).isLt
  have h4 := (read 4).isLt
  rw [decodeWith_eq, frameWf_iff]
  refine ⟨?std, ?ext, ?dlc, ?data⟩
  case std =>
    cases (read 0).getLsbD 7 with
    | false => intro _; simp only [Bool.false_eq_true, if_false]; omega
    | true => intro h; cases h
  case ext =>
    cases (read 0).getLsbD 7 with
    | false => intro h; cases h
    | true => intro _; simp only [if_true]; omega
  case dlc => exact (clampDlc_toNat _).trans_le (Nat.min_le_right _ _)
  case data => rw [List.length_map, List.length_range', dataLength]

/-- Settles O9. -/
theorem decodedFrameIsWellFormed : Obligations.DecodedFrameIsWellFormed := frameWf_decodeWith

/-- The data bytes of a decoded frame: those from the data base on, none for a remote frame (40_frame_codec.md R148). -/
theorem decodeWith_data (read : Nat → Byte) : (decodeWith read).data =
    if (decodeWith read).rtr then [] else
      (List.range (decodeWith read).dlc.toNat).map fun j => read ((if 128 ≤ (read 0).toNat then 5 else 3) + j) := by
  have hbase : 1 + idLength (read 0) = if 128 ≤ (read 0).toNat then 5 else 3 := by
    simp only [idLength, getLsbD_seven_iff]
    split <;> rfl
  rw [decodeWith_eq]
  simp only [hbase, dataLength, List.range'_eq_map_range, List.map_map]
  cases (read 0).getLsbD 6 <;> rfl

theorem exec_decode (img : Image) (s : State) : exec (.decode img) s =
    .next { s with response := some { result := .ok, outs := .frame (some (decodeImage img)) } } := rfl

/-- Settles O12, field by field. -/
theorem decodeCompletes : Obligations.DecodeCompletes := by
  unfold Obligations.DecodeCompletes
  refine fun img s => ⟨decodeImage img, exec_decode img s, ?fmt, ?rtr, ?dlc, ?id, decodeWith_data _⟩
  all_goals rw [decodeImage, decodeWith_eq]
  case fmt =>
    rw [← getLsbD_seven_iff]
    cases (imageByte img 0).getLsbD 7 <;> simp
  case rtr => exact getLsbD_six_iff _
  case dlc => rw [clampDlc_toNat, BitVec.extractLsb'_toNat, Nat.shiftRight_zero]
  case id => simp only [getLsbD_seven_iff]

/-! ### Images that hold an encoded frame (40_frame_codec.md R156) -/

/-- The buffer bytes hold every byte of `TxImage` at its index; the other slots hold anything. -/
def HoldsFrame (read : Nat → Byte) (f : Frame) : Prop := ∀ k b, (k, b) ∈ txImage f → read k = b

section
variable {read : Nat → Byte} {f : Frame}

theorem HoldsFrame.info (h : HoldsFrame read f) : read 0 = frameInfo f := h 0 _ (mem_txImage_iff.mpr rfl)

theorem HoldsFrame.idByte (h : HoldsFrame read f) {bs : List Byte} (hbytes : idBytes f = bs) {j : Nat} {b : Byte}
    (hb : bs[j]? = some b) : read (j + 1) = b := by
  refine h _ _ (mem_txImage_iff.mpr ?_)
  obtain ⟨hj, -⟩ := List.getElem?_eq_some_iff.mp hb
  rw [txBytes, List.getElem?_cons_succ, hbytes, List.getElem?_append_left hj, hb]

theorem HoldsFrame.data (h : HoldsFrame read f) :
    (List.range' (1 + (idBytes f).length) (txData f).length).map read = txData f := by
  apply List.ext_getElem
  · rw [List.length_map, List.length_range']
  · intro j _ hj
    rw [List.getElem_map, List.getElem_range']
    refine h _ _ (mem_txImage_iff.mpr ?_)
    rw [show 1 + (idBytes f).length + 1 * j = (idBytes f).length + j + 1 by omega, txBytes, List.getElem?_cons_succ,
      List.getElem?_append_right (Nat.le_add_right _ _), Nat.add_sub_cancel_left, List.getElem?_eq_getElem hj]

theorem HoldsFrame.ff (h : HoldsFrame read f) : (read 0).getLsbD 7 = (f.fmt == .ext) := by
  rw [h.info, frameInfo_eq, frameInfoByte_ff]

theorem HoldsFrame.rtr (h : HoldsFrame read f) : (read 0).getLsbD 6 = f.rtr := by
  rw [h.info, frameInfo_eq, frameInfoByte_rtr]

theorem HoldsFrame.dlc (h : HoldsFrame read f) : (read 0).extractLsb' 0 4 = f.dlc := by
  rw [h.info, frameInfo_eq, frameInfoByte_dlc]

theorem HoldsFrame.idLength_eq (h : HoldsFrame read f) : idLength (read 0) = (idBytes f).length := by
  rw [idLength, h.ff, idBytes_length]
  simp only [beq_iff_eq]

/-- The identifier bytes are put together again (30_encoding.md R115). -/
theorem HoldsFrame.id_eq (h : HoldsFrame read f) (hwf : frameWf f = true) :
    (if f.fmt == .ext then
        (read 1).toNat * 2 ^ 21 + (read 2).toNat * 2 ^ 13 + (read 3).toNat * 2 ^ 5 + (read 4).toNat / 8
      else (read 1).toNat * 8 + (read 2).toNat / 32) = f.id := by
  obtain ⟨hstd, hext, -, -⟩ := frameWf_iff.mp hwf
  cases hfmt : f.fmt with
  | std =>
    obtain ⟨b, c, hbytes, hb, hc⟩ := idBytes_std hfmt (hstd hfmt)
    rw [if_neg (by decide), h.idByte hbytes (j := 0) rfl, h.idByte hbytes (j := 1) rfl]
    omega
  | ext =>
    obtain ⟨b, c, d, e, hbytes, hb, hc, hd, he⟩ := idBytes_ext hfmt (hext hfmt)
    rw [if_pos (by decide), h.idByte hbytes (j := 0) rfl, h.idByte hbytes (j := 1) rfl,
      h.idByte hbytes (j := 2) rfl, h.idByte hbytes (j := 3) rfl]
    omega

/-- The round trip: the frame-info byte carries the format, the RTR flag and the length, the identifier comes back from
its bytes, and the decoder reads only data that the encoder wrote. -/
theorem HoldsFrame.decodes (h : HoldsFrame read f) (hwf : frameWf f = true) : decodeWith read = f := by
  obtain ⟨-, -, hle, hlength⟩ := frameWf_iff.mp hwf
  have hfmt : (if f.fmt == .ext then FrameFormat.ext else .std) = f.fmt := by cases f.fmt <;> rfl
  have hdlc : clampDlc ((read 0).extractLsb' 0 4) = f.dlc := by rw [h.dlc, clampDlc_of_le hle]
  have hcount : dataLength (read 0) = (txData f).length := by rw [dataLength, h.rtr, hdlc, txData_of_wf hwf, hlength]
  have hdata : (List.range' (1 + idLength (read 0)) (dataLength (read 0))).map read = f.data := by
    rw [h.idLength_eq, hcount, h.data, txData_of_wf hwf]
  rw [decodeWith_eq, h.ff, hfmt, h.id_eq hwf, h.rtr, hdlc, hdata]

end

/-- Settles O7, from the round trip for any source of buffer bytes. -/
theorem frameRoundTrip : Obligations.FrameRoundTrip := by
  unfold Obligations.FrameRoundTrip
  exact fun f img hwf h => HoldsFrame.decodes h hwf

/-! ### Injectivity, and what does not come back (40_frame_codec.md R157) -/

/-- Equal encodings have one image, which decodes to both frames. -/
theorem txImage_injective {f g : Frame} (hf : frameWf f = true) (hg : frameWf g = true) (h : txImage f = txImage g) :
    f = g := by
  have holds : HoldsFrame (fun k => ((txBytes f)[k]?).getD 0) f := fun k b hb => by
    simp only [mem_txImage_iff.mp hb, Option.getD_some]
  have holds' : HoldsFrame (fun k => ((txBytes f)[k]?).getD 0) g := fun k b hb => holds k b (h ▸ hb)
  exact (holds.decodes hf).symm.trans (holds'.decodes hg)

theorem frameInfoByte_and_unused (ff rtr : Bool) (dlc : BitVec 4) : frameInfoByte ff rtr 0 dlc &&& 0x30#8 = 0 := by
  revert ff rtr dlc
  decide

/-- A multiple of `2 ^ n` has its low `n` bits clear. -/
theorem and_lowMask_eq_zero {b mask : Byte} {n m : Nat} (hmask : mask.toNat = 2 ^ n - 1) (hb : b.toNat = m * 2 ^ n) :
    b &&& mask = 0 := by
  apply BitVec.eq_of_toNat_eq
  rw [BitVec.toNat_and, hmask, hb, Nat.and_two_pow_sub_one_eq_mod, Nat.mul_mod_left]
  rfl

/-- The encoder leaves the unassigned low bits of the last identifier byte clear (30_encoding.md R134). -/
theorem HoldsFrame.lastIdByte {read : Nat → Byte} {f : Frame} (h : HoldsFrame read f) (hwf : frameWf f = true) :
    read (idLength (read 0)) &&& (if (read 0).getLsbD 7 then 0x07#8 else 0x1F#8) = 0 := by
  obtain ⟨hstd, hext, -, -⟩ := frameWf_iff.mp hwf
  rw [h.idLength_eq, h.ff]
  cases hfmt : f.fmt with
  | std =>
    obtain ⟨b, c, hbytes, -, hc⟩ := idBytes_std hfmt (hstd hfmt)
    have hlast : read 2 = c := h.idByte hbytes (j := 1) rfl
    rw [hbytes, show [b, c].length = 2 from rfl, hlast]
    exact and_lowMask_eq_zero (n := 5) rfl hc
  | ext =>
    obtain ⟨b, c, d, e, hbytes, -, -, -, he⟩ := idBytes_ext hfmt (hext hfmt)
    have hlast : read 4 = e := h.idByte hbytes (j := 3) rfl
    rw [hbytes, show [b, c, d, e].length = 4 from rfl, hlast]
    exact and_lowMask_eq_zero (n := 3) rfl he

/-- An image that holds a well-formed frame has every ignored bit clear and a DLC of at most 8. -/
theorem HoldsFrame.ignoredBitsClear {read : Nat → Byte} {f : Frame} (h : HoldsFrame read f) (hwf : frameWf f = true) :
    read 0 &&& 0x30#8 = 0 ∧
    read (idLength (read 0)) &&& (if (read 0).getLsbD 7 then 0x07#8 else 0x1F#8) = 0 ∧
    (read 0).toNat % 16 ≤ 8 := by
  refine ⟨?_, h.lastIdByte hwf, ?_⟩
  · rw [h.info, frameInfo_eq, frameInfoByte_and_unused]
  · obtain ⟨-, -, hle, -⟩ := frameWf_iff.mp hwf
    rw [h.info, toNat_frameInfo]
    split <;> split <;> omega

/-- Encoding a decoded frame gives as many bytes as the image had (30_encoding.md R114). -/
theorem txBytes_decodeWith_length (read : Nat → Byte) : (txBytes (decodeWith read)).length = imageLength (read 0) := by
  rw [txBytes_length (frameWf_decodeWith read), decodeWith_eq, imageLength, dataLength, idLength]
  cases (read 0).getLsbD 7 <;> rfl

/-- Settles O8: the image of the decoded frame, were it held by the image read, would have all ignored bits clear. -/
theorem encoderInjective : Obligations.EncoderInjective := by
  unfold Obligations.EncoderInjective
  refine ⟨fun f g hf hg h => txImage_injective hf hg h, fun img hdiffers => ?_, fun img k b hk hb => ?_⟩
  · by_contra! hholds
    have hheld : HoldsFrame (imageByte img) (decodeImage img) := hholds
    obtain ⟨hunused, hlast, hdlc⟩ := hheld.ignoredBitsClear (frameWf_decodeWith _)
    obtain h | h | h := hdiffers
    · exact h hunused
    · exact h hlast
    · omega
  · obtain ⟨hlt, -⟩ := List.getElem?_eq_some_iff.mp (mem_txImage_iff.mp hb)
    exact absurd hlt (by rw [decodeImage, txBytes_decodeWith_length]; omega)

/-! ### ENCODE (40_frame_codec.md R145) -/

theorem lookup_indexFrom (n j : Nat) (bs : List Byte) : (indexFrom n bs).lookup (n + j) = bs[j]? := by
  induction bs generalizing n j with
  | nil => rfl
  | cons b bs ih =>
    cases j with
    | zero => simp [indexFrom]
    | succ j =>
      have hne : (n + (j + 1) == n) = false := by simp
      rw [indexFrom, List.lookup_cons, hne, List.getElem?_cons_succ, ← ih (n + 1) j]
      simp only [Nat.add_right_comm n 1 j, Nat.add_assoc]

theorem imageSlot_eq_some_iff {f : Frame} {k : Nat} {b : Byte} : imageSlot f k = some b ↔ (k, b) ∈ txImage f := by
  have hslot := lookup_indexFrom 0 k (txBytes f)
  rw [Nat.zero_add] at hslot
  rw [mem_txImage_iff, ← hslot]
  rfl

theorem getElem_imageOut (f : Frame) {k : Nat} (hk : k < 13) : (imageOut f)[k] = imageSlot f k := by
  interval_cases k <;> rfl

theorem exec_encode_of_wf {f : Frame} (hwf : frameWf f = true) (s : State) : exec (.encode f) s =
    .next { s with response := some { result := .ok, outs := .image (imageOut f) } } :=
  congrArg Host.Outcome.next (if_pos hwf)

theorem exec_encode_of_not_wf {f : Frame} (hwf : frameWf f = false) (s : State) : exec (.encode f) s =
    .next { s with response := some { result := .invalidFrame, outs := .none } } :=
  congrArg Host.Outcome.next (if_neg (by rw [hwf]; exact Bool.false_ne_true))

/-- Settles O11: each slot of `image_out` is looked up in `TxImage`. -/
theorem encodeCompletes : Obligations.EncodeCompletes := by
  unfold Obligations.EncodeCompletes
  refine fun f s => ⟨fun hwf => ⟨imageOut f, exec_encode_of_wf hwf s, fun k hk b => ?_⟩,
    fun hwf => exec_encode_of_not_wf hwf s⟩
  rw [getElem_imageOut f hk, imageSlot_eq_some_iff]

end Sys2Proof.Machine
end

section
/-! TRANSMIT, TRANSMIT_SS, ABORT and TX_READBACK (41_transmit.md R170 to R178). First what a run of writes, answered or
cut short, does to the state, and what the writes of a frame store at the controller; then the operations. -/

namespace Sys2Proof.Machine

/-! ### One access in a bracket (00_scope.md R16; 20_memory.md R68) -/

/-- The exception, with its event as that of the whole operation. -/
theorem deviceNotResponding_eq_statusChange (start s : State) :
    start.deviceNotResponding s = { s with
      devFault := true, log := s.log ++ .desel :: statusChangeBetween start (start.deviceNotResponding s),
      response := some { result := .deviceNotResponding, outs := .none } } := by
  rw [← State.deviceNotResponding_log, State.deviceNotResponding_eq]

theorem deviceNotResponding_controller (start s : State) : (start.deviceNotResponding s).controller = s.controller := by
  rw [State.deviceNotResponding_eq]

/-- An operation whose only access gets no response changes no flag, so its exit logs no event. -/
theorem deviceNotResponding_of_only_access (s : State) (off : Offset) :
    s.deviceNotResponding (s.select.noResponse off) = { s with
      log := s.log ++ [.sel, .noResp off, .desel], accesses := s.accesses + 1, devFault := true,
      response := some { result := .deviceNotResponding, outs := .none } } := by
  have hkept : (s.select.noResponse off).status = s.status ∧ (s.select.noResponse off).busClass = s.busClass :=
    ⟨rfl, rfl⟩
  rw [State.deviceNotResponding_eq, if_pos hkept]
  simp [State.noResponse, State.record, State.countAccess]

/-- A fault refuses the two instructions with one access, ABORT and TX_READBACK. -/
theorem exec_single_access_of_fault {s : State} (h : s.devFault = true) {i : Instr}
    (hi : i = .abort ∨ ∃ k, i = .txReadback k) :
    exec i s = .next { s with response := some { result := .deviceNotResponding, outs := .none } } := by
  obtain rfl | ⟨k, rfl⟩ := hi <;> exact congrArg Host.Outcome.next (if_pos h)

/-! ### ABORT (41_transmit.md R176) -/

theorem exec_abort_of_idle {s : State} (hfault : s.devFault = false) (hbusy : s.status.txBusy = false) :
    exec .abort s = .next { s with response := some { result := .ok, outs := .none } } := by
  change Host.Outcome.next _ = _
  rw [if_neg (by simp [hfault]), if_pos (by simp [hbusy])]
  rfl

/-- With a transmission pending ABORT comes to its one write. -/
theorem exec_abort_of_busy {s : State} (hfault : s.devFault = false) (hbusy : s.status.txBusy = true) :
    exec .abort s = .next (Access.conclude (regWrite 1 0x02 s.select) s fun _ t => t.deselect.respond .ok .none) := by
  change Host.Outcome.next _ = _
  rw [if_neg (by simp [hfault]), if_neg (by simp [hbusy])]

/-- Settles O17: two refusals, and the one write answered or lost. -/
theorem abortCompletes : Obligations.AbortCompletes := by
  unfold Obligations.AbortCompletes
  refine fun s => ⟨fun hfault => exec_single_access_of_fault hfault (.inl rfl), exec_abort_of_idle,
    fun hfault hbusy hresponds => ?_, fun hfault hbusy hlost => ?_⟩
  · have hwrite : regWrite 1 0x02 s.select = .going () (s.select.afterWrite 1 0x02) :=
      regWrite_of_responds (hresponds 0 one_pos)
    rw [exec_abort_of_busy hfault hbusy, hwrite, Access.conclude_going]
    simp [State.afterWrite, State.record, State.countAccess, State.withController, State.respond,
      Controller.afterWrite]
  · have hwrite : regWrite 1 0x02 s.select = .lost (s.select.noResponse 1) := if_pos hlost
    rw [exec_abort_of_busy hfault hbusy, hwrite, Access.conclude_lost, deviceNotResponding_of_only_access]

/-! ### TX_READBACK (41_transmit.md R178) -/

/-- A read at the transmit buffer's shadow has no side effect (10_state.md R58; 20_memory.md R65). -/
theorem readsQuietly_shadow {k : Nat} (hk : k ≤ 12) : readsQuietly (BitVec.ofNat 7 (96 + k)) := by
  unfold readsQuietly
  rw [offset_toNat (by omega)]
  omega

theorem exec_txReadback_of_bad_index {s : State} (hfault : s.devFault = false) {k : Byte} (hk : 12 < k.toNat) :
    exec (.txReadback k) s = .next { s with response := some { result := .invalidOperand, outs := .none } } := by
  change Host.Outcome.next _ = _
  rw [if_neg (by simp [hfault]), if_pos (by simpa [indexLegal] using hk)]
  rfl

/-- With a legal index TX_READBACK comes to its one read. -/
theorem exec_txReadback_of_index {s : State} (hfault : s.devFault = false) {k : Byte} (hk : k.toNat ≤ 12) :
    exec (.txReadback k) s = .next (Access.conclude (regRead (BitVec.ofNat 7 (96 + k.toNat)) s.select) s
      fun v t => t.deselect.respond .ok (.byte v)) := by
  change Host.Outcome.next _ = _
  rw [if_neg (by simp [hfault]), if_neg (by simp [indexLegal, hk])]

/-- Settles O18: two refusals, and the one read, which has no side effect, answered or lost. -/
theorem txReadbackCompletes : Obligations.TxReadbackCompletes := by
  unfold Obligations.TxReadbackCompletes
  refine fun k s => ⟨fun hfault => exec_single_access_of_fault hfault (.inr ⟨k, rfl⟩),
    fun hfault hk => exec_txReadback_of_bad_index hfault hk,
    fun hfault hk hresponds => ?_, fun hfault hk hlost => ?_⟩
  · obtain ⟨v, hvalue, hbyte⟩ := readValue_of_responds (off := BitVec.ofNat 7 (96 + k.toNat)) (s := s.select)
      (hresponds 0 one_pos)
    refine ⟨v, ?_, hbyte⟩
    rw [exec_txReadback_of_index hfault hk, regRead_of_value hvalue, Access.conclude_going]
    simp [State.afterRead, State.record, State.countAccess, State.withController, State.respond,
      Controller.afterRead_of_quiet _ (readsQuietly_shadow hk)]
  · have hnone : s.select.readValue (BitVec.ofNat 7 (96 + k.toNat)) = none := by
      simp only [State.readValue, show s.select.answerAt s.select.accesses = .noresp from hlost]
    rw [exec_txReadback_of_index hfault hk, regRead, hnone]
    exact congrArg Host.Outcome.next (deviceNotResponding_of_only_access s _)

/-! ### The admission checks (41_transmit.md R170) -/

/-- TRANSMIT and TRANSMIT_SS differ in the command byte alone. -/
theorem exec_transmission {f : Frame} {i : Instr} (hi : i = .transmit f ∨ i = .transmitSs f) (s : State) :
    ∃ command, exec i s = .next (s.transmitWith command f) := by
  obtain rfl | rfl := hi
  · exact ⟨_, rfl⟩
  · exact ⟨_, rfl⟩

theorem exec_transmission_of_refused {f : Frame} {i : Instr} (hi : i = .transmit f ∨ i = .transmitSs f) {s : State}
    {r : Result} (h : s.txCheck f = some r) :
    exec i s = .next { s with response := some { result := r, outs := .none } } := by
  obtain ⟨command, hexec⟩ := exec_transmission hi s
  rw [hexec, State.transmitWith, h]
  rfl

/-- Settles O14: the checks in their order. -/
theorem transmitRefusalsInOrder : Obligations.TransmitRefusalsInOrder := by
  unfold Obligations.TransmitRefusalsInOrder
  refine fun f s i hi => ⟨fun hfault => ?_, fun hfault hwf => ?_, fun hfault hwf hclass => ?_,
    fun hfault hwf hclass hmode => ?_, fun hfault hwf hclass hop hlom hsm hbusy => ?_⟩
  all_goals refine exec_transmission_of_refused hi ?_
  · simp [State.txCheck, hfault]
  · simp [State.txCheck, hfault, hwf]
  · simp [State.txCheck, hfault, hwf, hclass]
  · simp only [State.txCheck, hfault, hwf, hclass, hmode, if_true, if_false, not_true_eq_false, Bool.false_eq_true]
  · simp [State.txCheck, hfault, hwf, hclass, hop, hlom, hsm, hbusy]

/-- A busy transmitter fails the last check, if none before it. -/
theorem txCheck_of_busy {s : State} (h : s.status.txBusy = true) (f : Frame) : ∃ r, s.txCheck f = some r := by
  unfold State.txCheck
  rw [if_pos h]
  repeat' split
  all_goals exact ⟨_, rfl⟩

/-- Settles O19: a transmission is refused, and no other instruction may write the buffer. -/
theorem noBufferWriteWhileBusy : Obligations.NoBufferWriteWhileBusy := by
  unfold Obligations.NoBufferWriteWhileBusy
  intro i s hbusy
  by_cases hi : ∃ f, i = .transmit f ∨ i = .transmitSs f
  · obtain ⟨f, hi⟩ := hi
    obtain ⟨r, hcheck⟩ := txCheck_of_busy hbusy f
    exact ⟨_, [], exec_transmission_of_refused hi hcheck, by simp, by simp⟩
  · obtain ⟨t, seg, hexec, hlog, -, hwrites, -⟩ := accessMatrix i s
    refine ⟨t, seg, hexec, hlog, fun off v hmem hoff => ?_⟩
    obtain ⟨⟨f, rfl⟩, -⟩ | ⟨⟨f, rfl⟩, -⟩ | ⟨-, hcmr, -⟩ | ⟨-, hcmr, -⟩ := hwrites off v hmem
    · exact hi ⟨f, .inl rfl⟩
    · exact hi ⟨f, .inr rfl⟩
    · omega
    · omega

/-! ### A run of writes (20_memory.md R70) -/

/-- The log entry of an answered write. -/
abbrev writeEntry (w : Offset × Byte) : LogEntry := .wr w.1 w.2

/-- The state after these writes, each answered. -/
def State.afterWrites (s : State) (ws : List (Offset × Byte)) : State :=
  { s with
    log := s.log ++ ws.map writeEntry, accesses := s.accesses + ws.length,
    controller := s.controller.afterEntries s.params.passiveLimit (ws.map writeEntry) }

theorem State.afterWrites_cons (s : State) (w : Offset × Byte) (ws : List (Offset × Byte)) :
    (s.afterWrite w.1 w.2).afterWrites ws = s.afterWrites (w :: ws) := by
  simp [State.afterWrites, State.afterWrite, State.record, State.countAccess, State.withController, Nat.add_assoc,
    Nat.add_comm 1, Controller.afterEntries, Controller.afterEntry]

theorem regWriteAll_of_responds {ws : List (Offset × Byte)} {s : State} (h : s.respondsFor ws.length) :
    regWriteAll ws s = .going () (s.afterWrites ws) := by
  induction ws generalizing s with
  | nil => simp [regWriteAll, State.afterWrites, Controller.afterEntries]
  | cons w ws ih =>
    have hrest : (s.afterWrite w.1 w.2).respondsFor ws.length := fun k hk => by
      have hnext := h (k + 1) (by simpa using hk)
      rwa [Nat.add_comm k 1, ← Nat.add_assoc] at hnext
    rw [regWriteAll, regWrite_of_responds (h 0 (by simp)), Access.andThen_going, ih hrest, State.afterWrites_cons]

theorem regWriteAll_append (xs ys : List (Offset × Byte)) (s : State) :
    regWriteAll (xs ++ ys) s = (regWriteAll xs s).andThen fun _ t => regWriteAll ys t := by
  induction xs generalizing s with
  | nil => rfl
  | cons x xs ih =>
    simp only [List.cons_append, regWriteAll]
    cases regWrite x.1 x.2 s with
    | going _ t => exact ih t
    | lost t => rfl

/-- Where the first unanswered write is number `n`, the writes before it stand. -/
theorem regWriteAll_of_lost {ws : List (Offset × Byte)} {s : State} {n : Nat} (hn : n < ws.length)
    (h : s.respondsFor n) (hlost : s.answerAt (s.accesses + n) = .noresp) :
    regWriteAll ws s = .lost ((s.afterWrites (ws.take n)).noResponse ws[n].1) := by
  have hlength : (ws.take n).length = n := List.length_take_of_le hn.le
  have hfirst : regWriteAll (ws.take n) s = .going () (s.afterWrites (ws.take n)) :=
    regWriteAll_of_responds (by rwa [hlength])
  have hnext : (s.afterWrites (ws.take n)).answerAt (s.afterWrites (ws.take n)).accesses = .noresp := by
    rw [← hlength] at hlost
    exact hlost
  have hsplit : ws = ws.take n ++ ws[n] :: ws.drop (n + 1) := by
    rw [← List.drop_eq_getElem_cons hn, List.take_append_drop]
  calc regWriteAll ws s
      = regWriteAll (ws.take n ++ ws[n] :: ws.drop (n + 1)) s := by rw [← hsplit]
    _ = regWriteAll (ws[n] :: ws.drop (n + 1)) (s.afterWrites (ws.take n)) := by
        rw [regWriteAll_append, hfirst, Access.andThen_going]
    _ = .lost ((s.afterWrites (ws.take n)).noResponse ws[n].1) := by
        rw [regWriteAll, regWrite, if_pos hnext, Access.andThen_lost]

/-! ### The buffer writes at the controller (10_state.md R53, R54; log 4) -/

/-- Where a write in the buffer area stores depends on the mode and on a pending transmission alone. -/
theorem Controller.writeCell_congr {c d : Controller} (hmode : d.inResetMode = c.inResetMode)
    (hpending : d.txPending = c.txPending) (off : Offset) : d.writeCell off = c.writeCell off := by
  simp only [Controller.writeCell, hmode, hpending]

/-- A write in the buffer area that stores goes to the acceptance filter in reset mode, else to the transmit buffer. -/
theorem Controller.writeCell_bufferArea {c : Controller} {k a : Nat} (hk : k ≤ 12)
    (h : c.writeCell (BitVec.ofNat 7 (16 + k)) = some a) : a = (if c.inResetMode then 16 else 96) + k := by
  have hoff : (BitVec.ofNat 7 (16 + k)).toNat = 16 + k := offset_toNat (by omega)
  cases hmode : c.inResetMode with
  | true =>
    rw [Controller.writeCell_reset hmode (by simp [hoff]; omega), hoff] at h
    split at h
    · exact (Option.some.inj h).symm
    · cases h
  | false =>
    rw [Controller.writeCell_buffer hmode hk] at h
    split at h
    · cases h
    · exact (Option.some.inj h).symm

/-- A write in the buffer area changes its cell, if it has one, and nothing else. -/
theorem Controller.afterWrite_bufferArea {c : Controller} (hwf : c.regs.wf = true) (limit : Nat) {k : Nat}
    (hk : k ≤ 12) (b : Byte) :
    c.afterWrite limit (BitVec.ofNat 7 (16 + k)) b =
        { c with regs := (c.afterWrite limit (BitVec.ofNat 7 (16 + k)) b).regs } ∧
      ∀ a, (c.afterWrite limit (BitVec.ofNat 7 (16 + k)) b).regs.read a =
        if c.writeCell (BitVec.ofNat 7 (16 + k)) = some a then some b else c.regs.read a := by
  have hone : (BitVec.ofNat 7 (16 + k)).toNat ≠ 1 := by rw [offset_toNat (by omega)]; omega
  cases hcell : c.writeCell (BitVec.ofNat 7 (16 + k)) with
  | none =>
    rw [Controller.afterWrite_of_dash hone hcell]
    exact ⟨rfl, fun a => by simp⟩
  | some x =>
    have hx : 16 ≤ x := by
      have hx := Controller.writeCell_bufferArea hk hcell
      split at hx <;> omega
    rw [Controller.afterWrite_of_writeCell limit b hone hcell hx]
    refine ⟨rfl, fun a => ?_⟩
    rw [Controller.setCell_read hwf, registerMask_full (by omega) (by omega)]
    simp [eq_comm]

theorem bufferWriteEntries_length (f : Frame) : (bufferWriteEntries f).length = (txImage f).length := List.length_map _

/-- Write `n` of a frame puts byte `n` into the buffer (41_transmit.md R172). -/
theorem bufferWriteEntries_getElem? (f : Frame) (n : Nat) :
    (bufferWriteEntries f)[n]? = (txBytes f)[n]?.map (.wr (BitVec.ofNat 7 (16 + n))) := by
  simp [bufferWriteEntries, txImage_eq, Function.comp_def]

/-- No buffer write reaches MOD, so each stores where it would have at the start. -/
theorem StoredBytes.writeCell_eq {f : Frame} {n : Nat} {c d : Controller} (h : StoredBytes f n c d)
    (hf : frameWf f = true) (heq : d = { c with regs := d.regs }) (off : Offset) :
    d.writeCell off = c.writeCell off := by
  obtain ⟨-, hkept⟩ := h
  have hmod : d.regs.read 0 = c.regs.read 0 := hkept 0 fun k x _ hx hcell => by
    have ha := Controller.writeCell_bufferArea (txImage_index_le hf hx) hcell
    split at ha <;> omega
  have hmode : d.inResetMode = c.inResetMode := by
    rw [Controller.inResetMode, Controller.cell_congr hmod]
    rfl
  have hpending : d.txPending = c.txPending := by
    rw [heq]
    rfl
  exact Controller.writeCell_congr hmode hpending off

/-- After the first `n` buffer writes, write `n` stores byte `n` in a cell of its own. -/
theorem StoredBytes.write_next {f : Frame} {n : Nat} {c d : Controller} (h : StoredBytes f n c d)
    (hf : frameWf f = true) (hwf : d.regs.wf = true) (heq : d = { c with regs := d.regs }) (limit : Nat) {b : Byte}
    (hb : (n, b) ∈ txImage f) : StoredBytes f (n + 1) c (d.afterWrite limit (BitVec.ofNat 7 (16 + n)) b) := by
  have hn : n ≤ 12 := txImage_index_le hf hb
  obtain ⟨-, hread⟩ := Controller.afterWrite_bufferArea hwf limit hn b
  rw [h.writeCell_eq hf heq] at hread
  obtain ⟨hstored, hkept⟩ := h
  refine ⟨fun k x a hk hx hcell => ?_, fun a hother => ?_⟩
  · rw [hread]
    obtain rfl | hlt := Nat.eq_or_lt_of_le (Nat.le_of_lt_succ hk)
    · rw [if_pos hcell, ← mem_txImage_iff.mp hx, mem_txImage_iff.mp hb]
    · have hdistinct : c.writeCell (BitVec.ofNat 7 (16 + n)) ≠ some a := fun hcell' => by
        have ha := Controller.writeCell_bufferArea (txImage_index_le hf hx) hcell
        have ha' := Controller.writeCell_bufferArea hn hcell'
        omega
      rw [if_neg hdistinct]
      exact hstored k x a hlt hx hcell
  · rw [hread, if_neg (hother n b (Nat.lt_succ_self n) hb)]
    exact hkept a fun k x hk hx => hother k x (hk.trans (Nat.lt_succ_self n)) hx

/-- The first `n` buffer writes of a frame store its first `n` bytes, and change nothing at the controller but register
cells. -/
theorem Controller.afterEntries_bufferWrites {c : Controller} (hwf : c.regs.wf = true) {f : Frame}
    (hf : frameWf f = true) (limit : Nat) {n : Nat} (hn : n ≤ (txImage f).length) {d : Controller}
    (hd : d = c.afterEntries limit ((bufferWriteEntries f).take n)) :
    d.regs.wf = true ∧ d = { c with regs := d.regs } ∧ StoredBytes f n c d := by
  induction n generalizing d with
  | zero =>
    obtain rfl : d = c := hd
    exact ⟨hwf, rfl, fun k b a hk => absurd hk (Nat.not_lt_zero k), fun a _ => rfl⟩
  | succ n ih =>
    obtain ⟨hwf', heq, hstored⟩ := ih (by omega) rfl
    obtain ⟨b, hb⟩ : ∃ b, (txBytes f)[n]? = some b := by
      refine ⟨_, List.getElem?_eq_getElem (i := n) ?_⟩
      rw [← txImage_map_snd, List.length_map]
      omega
    have hmem : (n, b) ∈ txImage f := mem_txImage_iff.mpr hb
    rw [List.take_add_one, bufferWriteEntries_getElem?, hb, Controller.afterEntries_append] at hd
    obtain ⟨hcells, -⟩ := Controller.afterWrite_bufferArea hwf' limit (txImage_index_le hf hmem) b
    have hnext := hstored.write_next hf hwf' heq limit hmem
    have hwf'' := Controller.afterWrite_wf hwf' limit (BitVec.ofNat 7 (16 + n)) b
    generalize c.afterEntries limit ((bufferWriteEntries f).take n) = e at *
    obtain ⟨regs, rfl⟩ : ∃ regs, e = { c with regs := regs } := ⟨_, heq⟩
    rw [hd]
    exact ⟨hwf'', hcells, hnext⟩

/-! ### The transmit sequence (41_transmit.md R172, R173) -/

theorem map_writeEntry_bufferWrites (f : Frame) : (bufferWrites f).map writeEntry = bufferWriteEntries f := by
  rw [bufferWrites, List.map_map]
  rfl

theorem bufferWrites_length (f : Frame) : (bufferWrites f).length = (txImage f).length := List.length_map _

theorem bufferWrites_getElem (f : Frame) {n : Nat} (hn : n < (bufferWrites f).length) :
    (bufferWrites f)[n].1 = BitVec.ofNat 7 (16 + n) := by
  simp [bufferWrites, bufferOffset, txImage_eq]

/-- An admitted transmission comes to its writes. -/
theorem transmitWith_of_admitted {s : State} {f : Frame} (h : s.admitsTransmit f) (command : Byte) :
    s.transmitWith command f = Access.conclude
      ((regWriteAll (bufferWrites f) s.select).andThen fun _ t => regWrite 1 command (t.setTxBusy true))
      s (fun _ t => (s.emitIfChanged t.deselect).respond .ok .none) := by
  obtain ⟨hfault, hwf, hclass, hop, hlom, hsm, hbusy⟩ := h
  have hcheck : s.txCheck f = none := by simp [State.txCheck, hfault, hwf, hclass, hop, hlom, hsm, hbusy]
  rw [State.transmitWith, hcheck]

/-- The state of a transmission after its first `n` buffer writes. -/
def State.buffered (s : State) (f : Frame) (n : Nat) : State := s.select.afterWrites ((bufferWrites f).take n)

theorem State.buffered_eq (s : State) {f : Frame} {n : Nat} (hn : n ≤ (txImage f).length) : s.buffered f n = { s with
    log := s.log ++ .sel :: (bufferWriteEntries f).take n, accesses := s.accesses + n,
    controller := s.controller.afterEntries s.params.passiveLimit ((bufferWriteEntries f).take n) } := by
  simp [State.buffered, State.afterWrites, State.record, List.map_take, map_writeEntry_bufferWrites,
    bufferWrites_length, hn]

/-- Where every buffer write is answered, the busy flag and the command byte follow. -/
theorem transmitAccesses_of_responds {s : State} {f : Frame} (h : s.respondsFor (txImage f).length) (command : Byte) :
    ((regWriteAll (bufferWrites f) s.select).andThen fun _ t => regWrite 1 command (t.setTxBusy true)) =
      regWrite 1 command ((s.buffered f (txImage f).length).setTxBusy true) := by
  rw [regWriteAll_of_responds (s := s.select) (by rw [bufferWrites_length]; exact h), Access.andThen_going,
    State.buffered, List.take_of_length_le (bufferWrites_length f).le]

/-- An admitted transmission whose writes are answered changes the busy flag, so it logs an event. -/
theorem transmitWith_of_responds {s : State} {f : Frame} (hadmits : s.admitsTransmit f)
    (hresponds : s.respondsFor ((txImage f).length + 1)) (command : Byte) {d : Controller}
    (hd : d = s.controller.afterEntries s.params.passiveLimit (bufferWriteEntries f)) :
    s.transmitWith command f = { s with
      status := { s.status with txBusy := true },
      log := s.log ++ (.sel :: (bufferWriteEntries f ++
        [.wr 1 command, .desel, .statusChange (s.setTxBusy true).statusWord s.busClass])),
      accesses := s.accesses + (txImage f).length + 1, controller := { d with latch := d.latch ++ [command] },
      response := some { result := .ok, outs := .none } } := by
  have hbuffered := s.buffered_eq (f := f) le_rfl
  rw [List.take_of_length_le (bufferWriteEntries_length f).le, ← hd] at hbuffered
  have hcommand : regWrite 1 command ((s.buffered f (txImage f).length).setTxBusy true) =
      .going () (((s.buffered f (txImage f).length).setTxBusy true).afterWrite 1 command) := by
    refine regWrite_of_responds ?_
    rw [hbuffered]
    exact hresponds _ (Nat.lt_succ_self _)
  rw [transmitWith_of_admitted hadmits, transmitAccesses_of_responds fun k hk => hresponds k (by omega), hcommand,
    Access.conclude_going, hbuffered]
  obtain ⟨-, -, -, -, -, -, hbusy⟩ := hadmits
  have hchanged : ({ s.status with txBusy := true } : ControllerStatus) ≠ s.status := fun h => by
    have hflag := congrArg ControllerStatus.txBusy h
    simp [hbusy] at hflag
  simp [State.emitIfChanged, State.afterWrite, Controller.afterWrite, hchanged, State.respond, State.record,
    State.countAccess, State.withController, State.withStatus, State.statusWord]

/-- The frame of an admitted transmission whose writes are answered. -/
theorem transmitWith_transmitted {s : State} {f : Frame} (hwf : s.memoryCanonical) (hadmits : s.admitsTransmit f)
    (hresponds : s.respondsFor ((txImage f).length + 1)) (command : Byte) :
    Transmitted command f s (s.transmitWith command f) := by
  have ⟨_, hf, _⟩ := hadmits
  obtain ⟨d, hd⟩ : ∃ d, d = s.controller.afterEntries s.params.passiveLimit (bufferWriteEntries f) := ⟨_, rfl⟩
  have hall : (bufferWriteEntries f).take (txImage f).length = bufferWriteEntries f :=
    List.take_of_length_le (bufferWriteEntries_length f).le
  obtain ⟨-, heq, hstored⟩ := Controller.afterEntries_bufferWrites hwf hf s.params.passiveLimit le_rfl (hall ▸ hd)
  rw [transmitWith_of_responds hadmits hresponds command hd]
  obtain ⟨regs, rfl⟩ : ∃ regs, d = { s.controller with regs := regs } := ⟨_, heq⟩
  exact ⟨rfl, rfl, rfl, rfl, rfl, rfl, rfl, rfl, rfl, rfl, rfl, rfl, rfl, rfl, rfl, rfl, rfl, rfl, rfl, hstored⟩

/-- Settles O15: the two transmissions differ in the command byte alone. -/
theorem transmissionsComplete : Obligations.TransmissionsComplete := by
  unfold Obligations.TransmissionsComplete
  exact fun f s hwf hadmits hresponds => ⟨⟨_, rfl, transmitWith_transmitted hwf hadmits hresponds _⟩,
    ⟨_, rfl, transmitWith_transmitted hwf hadmits hresponds _⟩⟩

/-- A transmission whose `n`-th write is lost takes the exit: after the `n` buffer writes before it, and, where it is
the one to CMR, with the busy flag set (41_transmit.md R172). -/
theorem transmitWith_of_lost {s : State} {f : Frame} {n : Nat} (hadmits : s.admitsTransmit f)
    (hn : n ≤ (txImage f).length) (hresponds : s.respondsFor n) (hlost : s.answerAt (s.accesses + n) = .noresp)
    (command : Byte) :
    s.transmitWith command f = s.deviceNotResponding
      (((s.buffered f n).setTxBusy (decide (n = (txImage f).length))).noResponse
        (if n = (txImage f).length then 1 else BitVec.ofNat 7 (16 + n))) := by
  rw [transmitWith_of_admitted hadmits]
  obtain rfl | hlt := hn.eq_or_lt
  · have hcommand : regWrite 1 command ((s.buffered f (txImage f).length).setTxBusy true) =
        .lost (((s.buffered f (txImage f).length).setTxBusy true).noResponse 1) := by
      refine if_pos ?_
      rw [s.buffered_eq le_rfl]
      exact hlost
    rw [transmitAccesses_of_responds hresponds, hcommand, Access.conclude_lost, decide_eq_true rfl, if_pos rfl]
  · have hidle : (s.buffered f n).setTxBusy false = s.buffered f n := by
      obtain ⟨-, -, -, -, -, -, hbusy⟩ := hadmits
      rw [s.buffered_eq hn, State.setTxBusy_eq, State.withStatus, ← hbusy]
    rw [regWriteAll_of_lost (s := s.select) (by rwa [bufferWrites_length]) hresponds hlost, Access.andThen_lost,
      Access.conclude_lost, bufferWrites_getElem, decide_eq_false hlt.ne, if_neg hlt.ne, hidle]
    rfl

/-- Settles O16: the exit, its log, and what the writes before it stored. -/
theorem transmitWithoutResponse : Obligations.TransmitWithoutResponse := by
  unfold Obligations.TransmitWithoutResponse
  intro f s i n hi hwf hadmits hn hresponds hlost
  obtain ⟨command, hexec⟩ := exec_transmission hi s
  rw [transmitWith_of_lost hadmits hn hresponds hlost, s.buffered_eq hn] at hexec
  obtain ⟨-, hf, -, -, -, -, -⟩ := hadmits
  obtain ⟨-, heq, hstored⟩ := Controller.afterEntries_bufferWrites hwf hf s.params.passiveLimit hn rfl
  refine ⟨_, hexec, ?_, ?_, ?_⟩
  · refine (deviceNotResponding_eq_statusChange s _).trans ?_
    simp [State.noResponse, State.record, State.countAccess, State.withStatus, deviceNotResponding_controller]
  · rw [deviceNotResponding_controller]
    exact heq
  · rw [deviceNotResponding_controller]
    exact hstored

end Sys2Proof.Machine
end

section
/-! TRY_RECEIVE without its drain (42_receive.md R201, R202, R207): the refusals, the end of the operation, the empty
FIFO, and the order of the two command bytes, whatever the answers. -/

namespace Sys2Proof.Machine

/-! ### Admission and the end of the operation (42_receive.md R201, R208; 00_scope.md R16) -/

/-- The end of TRY_RECEIVE after its last access was answered. -/
def finishReceive (start : State) (f : Option Frame) (t : State) : State :=
  (start.emitIfChanged (t.deselect.recordFrame f)).respond .ok (.frame f)

theorem exec_tryReceive_of_fault {s : State} (hfault : s.devFault = true) :
    exec .tryReceive s = .next { s with response := some { result := .deviceNotResponding, outs := .none } } :=
  congrArg Host.Outcome.next (if_pos hfault)

theorem exec_tryReceive_outside_operating {s : State} (hfault : s.devFault = false) (hmode : s.mode.op ≠ .operating) :
    exec .tryReceive s = .next { s with response := some { result := .notOperating, outs := .none } } := by
  change Host.Outcome.next _ = _
  rw [if_neg (by simp [hfault]), if_pos hmode]
  rfl

/-- Admitted, TRY_RECEIVE comes to its accesses. -/
theorem exec_tryReceive_of_admitted {s : State} (hfault : s.devFault = false) (hmode : s.mode.op = .operating) :
    exec .tryReceive s = .next ((receiveAccesses s.select).conclude s (finishReceive s)) := by
  change Host.Outcome.next _ = _
  rw [if_neg (by simp [hfault]), if_neg (by simp [hmode])]
  rfl

/-- After the last access, answered or lost, an operation deselects and reports events. -/
theorem conclude_reports {α : Type} (s : State) {finish : α → State → State} (a : Access α)
    (hfin : ∀ v u, Reports u.deselect (finish v u)) : Reports a.last.deselect (a.conclude s finish) := by
  cases a with
  | going v u => exact hfin v u
  | lost u =>
    have hfault : Reports u.deselect (u.withDevFault true).deselect := PortIdle.reports ⟨rfl, rfl, rfl, rfl, rfl⟩
    exact (hfault.emitIfChanged s).respond _ _

theorem finishReceive_reports (start : State) (f : Option Frame) (t : State) :
    Reports t.deselect (finishReceive start f t) :=
  (((Reports.refl t.deselect).recordFrame f).emitIfChanged start).respond _ _

/-- Settles O20: two refusals, and at least one access once admitted (`receiveAccesses_converses`). -/
theorem tryReceiveRefusals : Obligations.TryReceiveRefusals := by
  unfold Obligations.TryReceiveRefusals
  refine fun s => ⟨exec_tryReceive_of_fault, exec_tryReceive_outside_operating, fun hfault hmode => ?_⟩
  obtain ⟨accs, hlength, hconv⟩ := receiveAccesses_converses s.select
  obtain ⟨evs, hlog, -⟩ := (conclude_reports s (receiveAccesses s.select) (finishReceive_reports s)).events
  obtain ⟨e, accs, rfl⟩ := List.exists_cons_of_length_pos hlength
  refine ⟨_, e, accs ++ .desel :: evs, exec_tryReceive_of_admitted hfault hmode, ?_,
    hconv.isAccess e List.mem_cons_self⟩
  rw [hlog, State.deselect, State.record_log, hconv.log, State.select, State.record_log]
  simp

/-! ### Nothing waits (42_receive.md R202) -/

/-- The end of an operation with a status change and a result, its event as that of the whole operation. -/
theorem State.emitIfChanged_respond (start t : State) (r : Result) (o : Outputs) :
    (start.emitIfChanged t).respond r o = { t with
      log := t.log ++ statusChangeBetween start ((start.emitIfChanged t).respond r o),
      response := some { result := r, outs := o } } := by
  rw [State.emitIfChanged_eq]
  rfl

theorem readsQuietly_sr : readsQuietly 2 := ⟨by decide, by decide, by decide⟩

/-- A quiet read is logged and counted, and that is all. -/
theorem State.afterRead_of_quiet (s : State) {off : Offset} (h : readsQuietly off) (v : Byte) :
    s.afterRead off v = { s with log := s.log ++ [.rd off v], accesses := s.accesses + 1 } := by
  rw [State.afterRead, Controller.afterRead_of_quiet _ h]
  rfl

theorem receiveAccesses_of_empty {s : State} {sr : Byte} (hvalue : s.readValue 2 = some sr)
    (hrbs : sr.getLsbD 0 = false) :
    receiveAccesses s = .going none ((s.afterRead 2 sr).setMsgWaiting false) := by
  rw [receiveAccesses, regRead_of_value hvalue, Access.andThen_going, hrbs, if_neg Bool.false_ne_true]

/-- Settles O21: the read of SR is the only access, and it has no side effect. -/
theorem tryReceiveFindsNothing : Obligations.TryReceiveFindsNothing := by
  unfold Obligations.TryReceiveFindsNothing
  intro s sr hfault hmode hvalue hrbs
  have haccesses : receiveAccesses s.select = .going none ((s.select.afterRead 2 sr).setMsgWaiting false) :=
    receiveAccesses_of_empty hvalue hrbs
  refine ⟨_, exec_tryReceive_of_admitted hfault hmode, ?_⟩
  rw [haccesses, State.afterRead_of_quiet _ readsQuietly_sr, Access.conclude_going]
  refine (State.emitIfChanged_respond s _ _ _).trans ?_
  simp [finishReceive, State.recordFrame, State.record, State.withStatus]

/-! ### The order of the two command bytes (42_receive.md R207; 70_reset_and_hazards.md R350) -/

/-- From `s` to `t` no CDO write was logged. -/
def NoAcknowledge (s t : State) : Prop := ∃ seg, t.log = s.log ++ seg ∧ LogEntry.wr 1 0x08 ∉ seg

/-- From `s` to `t` no CDO write was logged but after an RRB write. -/
def ReleasesFirst (s t : State) : Prop :=
  NoAcknowledge s t ∨ ∃ u, NoAcknowledge s u ∧ ∃ seg, t.log = u.log ++ .wr 1 0x04 :: seg

theorem NoAcknowledge.trans {s t u : State} (h : NoAcknowledge s t) (g : NoAcknowledge t u) : NoAcknowledge s u := by
  obtain ⟨xs, hxs, hno⟩ := h
  obtain ⟨ys, hys, hno'⟩ := g
  exact ⟨xs ++ ys, by rw [hys, hxs, List.append_assoc], fun hmem => (List.mem_append.mp hmem).elim hno hno'⟩

theorem NoAcknowledge.releasesFirst {s t u : State} (h : NoAcknowledge s t) (g : ReleasesFirst t u) :
    ReleasesFirst s u := by
  obtain g | ⟨v, g, hlog⟩ := g
  · exact .inl (h.trans g)
  · exact .inr ⟨v, h.trans g, hlog⟩

theorem ReleasesFirst.then {s t u : State} (h : ReleasesFirst s t) (g : NoAcknowledge t u) : ReleasesFirst s u := by
  obtain h | ⟨v, hv, seg, hlog⟩ := h
  · exact .inl (h.trans g)
  · obtain ⟨ys, hys, -⟩ := g
    exact .inr ⟨v, hv, seg ++ ys, by rw [hys, hlog, List.append_assoc, List.cons_append]⟩

/-- So what was logged has an RRB write before every CDO write. -/
theorem ReleasesFirst.ordered {s t : State} {seg pre post : List LogEntry} (h : ReleasesFirst s t)
    (hlog : t.log = s.log ++ seg) (hseg : seg = pre ++ .wr 1 0x08 :: post) : LogEntry.wr 1 0x04 ∈ pre := by
  have hcdo : LogEntry.wr 1 0x08 ∈ seg := hseg ▸ List.mem_append_cons_self
  obtain ⟨xs, hxs, hno⟩ | ⟨u, ⟨xs, hxs, hno⟩, ys, hys⟩ := h
  · rw [hlog, List.append_cancel_left_eq] at hxs
    exact absurd (hxs ▸ hcdo) hno
  · rw [hlog, hxs, List.append_assoc, List.append_cancel_left_eq, hseg] at hys
    obtain ⟨zs, hxs, hzs⟩ | ⟨zs, rfl, hzs⟩ := List.append_eq_append_iff.mp hys
    · cases zs with
      | nil => cases hzs
      | cons z zs =>
        obtain ⟨rfl, -⟩ := List.cons.inj hzs
        exact absurd (hxs ▸ List.mem_append_cons_self) hno
    · cases zs with
      | nil => cases hzs
      | cons z zs =>
        obtain ⟨rfl, -⟩ := List.cons.inj hzs
        exact List.mem_append_cons_self

/-- Accesses of which none is a CDO write. -/
theorem Access.Follows.noAcknowledge {α : Type} {s : State} {a : Access α} (h : a.Follows s (· ≠ .wr 1 0x08)) :
    NoAcknowledge s a.last := by
  cases a with
  | going v u =>
    obtain ⟨accs, hlog, -, hall, -⟩ := h
    exact ⟨accs, hlog, fun hmem => hall _ hmem rfl⟩
  | lost u =>
    obtain ⟨accs, off, hlog, -, hall, -, -⟩ := h
    refine ⟨accs ++ [LogEntry.noResp off], hlog, fun hmem => ?_⟩
    obtain hmem | hmem := List.mem_append.mp hmem
    · exact hall _ hmem rfl
    · cases List.mem_singleton.mp hmem

/-- No CDO write before the first accesses are over, and none but after RRB from then on. -/
theorem Access.Follows.releasesFirst {α β : Type} {s : State} {a : Access α} {k : α → State → Access β}
    (h : a.Follows s (· ≠ .wr 1 0x08)) (hk : ∀ v u, ReleasesFirst u (k v u).last) :
    ReleasesFirst s (a.andThen k).last := by
  cases a with
  | going v u => exact h.noAcknowledge.releasesFirst (hk v u)
  | lost u => exact .inl h.noAcknowledge

/-- The RRB write, and whatever comes after it. -/
theorem regWrite_releasesFirst {β : Type} (s : State) {k : Unit → State → Access β}
    (hk : ∀ u, (k () u).Converses u 0) : ReleasesFirst s ((regWrite 1 0x04 s).andThen k).last := by
  obtain ⟨-, e⟩ | ⟨-, e⟩ := regWrite_cases 1 0x04 s
  · obtain ⟨accs, -, hconv⟩ := hk (s.afterWrite 1 0x04)
    rw [e, Access.andThen_going]
    exact .inr ⟨s, ⟨[], by simp, List.not_mem_nil⟩, accs, by rw [hconv.log]; simp [State.afterWrite]⟩
  · rw [e, Access.andThen_lost]
    exact .inl ⟨[.noResp 1], rfl, by simp⟩

theorem allowsRead_notAcknowledge (off : Offset) : AllowsRead (· ≠ .wr 1 0x08) off := ⟨nofun, nofun⟩

theorem receiveAccesses_releasesFirst (s : State) : ReleasesFirst s (receiveAccesses s).last := by
  have hread (off : Offset) (t : State) := (allowsRead_notAcknowledge off).follows t
  refine (hread 2 s).releasesFirst fun sr t => ?_
  split
  · refine (readFrame_follows (fun k _ => allowsRead_notAcknowledge _) t).releasesFirst fun f u =>
      (hread 29 u).releasesFirst fun rmc v => regWrite_releasesFirst v fun w => ?_
    exact ((acknowledgeOverrun_converses _).after (portIdle_withStatus w _)).andThen fun _ x =>
      (PortIdle.refl x).converses _
  · exact .inl ⟨[], by simp [Access.last], List.not_mem_nil⟩

theorem Reports.noAcknowledge {s t : State} (h : Reports s t) : NoAcknowledge s t := by
  obtain ⟨evs, hlog, hall⟩ := h.events
  exact ⟨evs, hlog, fun hmem => absurd (List.all_eq_true.mp hall _ hmem) (by simp [LogEntry.isOutside])⟩

theorem noAcknowledge_record (s : State) {e : LogEntry} (he : e ≠ .wr 1 0x08) : NoAcknowledge s (s.record e) :=
  ⟨[e], rfl, fun hmem => he (List.mem_singleton.mp hmem).symm⟩

theorem exec_tryReceive_releasesFirst (s : State) : ∃ t, exec .tryReceive s = .next t ∧ ReleasesFirst s t := by
  by_cases hfault : s.devFault = true
  · exact ⟨_, exec_tryReceive_of_fault hfault, .inl (reports_respond s _ _).noAcknowledge⟩
  by_cases hmode : s.mode.op = .operating
  · have hselect : NoAcknowledge s s.select := noAcknowledge_record s nofun
    have haccesses := receiveAccesses_releasesFirst s.select
    have hdeselect (t : State) : NoAcknowledge t t.deselect := noAcknowledge_record t nofun
    have hend := conclude_reports s (receiveAccesses s.select) (finishReceive_reports s)
    exact ⟨_, exec_tryReceive_of_admitted (eq_false_of_ne_true hfault) hmode,
      ((hselect.releasesFirst haccesses).then (hdeselect _)).then hend.noAcknowledge⟩
  · exact ⟨_, exec_tryReceive_outside_operating (eq_false_of_ne_true hfault) hmode,
      .inl (reports_respond s _ _).noAcknowledge⟩

/-- Settles O23: TRY_RECEIVE releases first, and no other instruction may write CDO. -/
theorem overrunAcknowledgedAfterRelease : Obligations.OverrunAcknowledgedAfterRelease := by
  unfold Obligations.OverrunAcknowledgedAfterRelease
  intro i s
  obtain ⟨t, seg, hexec, hlog, -, hwrites, -⟩ := accessMatrix i s
  refine ⟨t, seg, hexec, hlog, fun pre post hseg => ?_⟩
  have hcdo : mayWrite i s 1 0x08 := hwrites 1 0x08 (hseg ▸ List.mem_append_cons_self)
  obtain ⟨-, hbuf | ⟨-, hcmr⟩⟩ | ⟨-, hbuf | ⟨-, hcmr⟩⟩ | ⟨-, -, hcmr⟩ | ⟨rfl, -⟩ := hcdo
  · omega
  · split at hcmr <;> cases hcmr
  · omega
  · split at hcmr <;> cases hcmr
  · cases hcmr
  · obtain ⟨u, hu, hfirst⟩ := exec_tryReceive_releasesFirst s
    obtain rfl : u = t := Host.Outcome.next.inj (hu.symm.trans hexec)
    exact hfirst.ordered hlog hseg

end Sys2Proof.Machine
end

section
/-! The drain of TRY_RECEIVE (42_receive.md R203 to R208): first what a run of quiet reads, answered or cut short, does
to the state; then the drain as one run of reads and two writes after it, up to any access that is lost. -/

namespace Sys2Proof.Machine

/-! ### A run of quiet reads (20_memory.md R70) -/

/-- What access number `k` from now on reads at an offset, with the controller as it is now; none where it gets no
response. -/
def State.valueAt (s : State) (k : Nat) (off : Offset) : Option Byte :=
  { s with accesses := s.accesses + k }.readValue off

theorem State.valueAt_of_lost {s : State} {k : Nat} (h : s.answerAt (s.accesses + k) = .noresp) (off : Offset) :
    s.valueAt k off = none := by
  have hanswer : ({ s with accesses := s.accesses + k } : State).answerAt (s.accesses + k) = .noresp := h
  rw [State.valueAt, State.readValue, hanswer]

theorem State.valueAt_of_responds {s : State} {k : Nat} (h : s.answerAt (s.accesses + k) ≠ .noresp) (off : Offset) :
    ∃ v, s.valueAt k off = some v ∧ ∀ w, s.answerAt (s.accesses + k) = .byte w → v = w :=
  readValue_of_responds (s := { s with accesses := s.accesses + k }) h

/-- A quiet read leaves the values of the later reads. -/
theorem State.valueAt_afterRead (s : State) {off : Offset} (h : readsQuietly off) (v : Byte) (k : Nat) (off' : Offset) :
    (s.afterRead off v).valueAt k off' = s.valueAt (k + 1) off' := by
  rw [State.afterRead_of_quiet s h]
  have hnumber : s.accesses + 1 + k = s.accesses + (k + 1) := by omega
  simp only [State.valueAt, State.readValue, State.answerAt, hnumber]

/-- The log entry of an answered read. -/
abbrev readEntry (r : Offset × Byte) : LogEntry := .rd r.1 r.2

/-- The first `n` of these reads, made from `s` on, find these bytes. -/
def State.Finds (s : State) (n : Nat) (rs : List (Offset × Byte)) : Prop :=
  ∀ k < n, ∀ r, rs[k]? = some r → s.valueAt k r.1 = some r.2

/-- The state after these reads, each answered and without side effect. -/
def State.afterReads (s : State) (rs : List (Offset × Byte)) : State :=
  { s with log := s.log ++ rs.map readEntry, accesses := s.accesses + rs.length }

theorem regReadAll_of_finds {rs : List (Offset × Byte)} {s : State} (hquiet : ∀ r ∈ rs, readsQuietly r.1)
    (h : s.Finds rs.length rs) :
    regReadAll (rs.map Prod.fst) s = .going (rs.map Prod.snd) (s.afterReads rs) := by
  induction rs generalizing s with
  | nil => simp [regReadAll, State.afterReads]
  | cons r rs ih =>
    have hr : readsQuietly r.1 := hquiet r List.mem_cons_self
    have hvalue : s.readValue r.1 = some r.2 := h 0 (by simp) r rfl
    have hrest : (s.afterRead r.1 r.2).Finds rs.length rs := fun k hk r' hr' => by
      rw [s.valueAt_afterRead hr]
      exact h (k + 1) (by simpa using hk) r' hr'
    have hstate : (s.afterRead r.1 r.2).afterReads rs = s.afterReads (r :: rs) := by
      rw [State.afterRead_of_quiet s hr]
      simp [State.afterReads, Nat.add_assoc, Nat.add_comm 1]
    simp only [List.map_cons, regReadAll, regRead_of_value hvalue, Access.andThen_going,
      ih (fun r' hr' => hquiet r' (List.mem_cons_of_mem r hr')) hrest, hstate]

theorem regReadAll_append (xs ys : List Offset) (s : State) :
    regReadAll (xs ++ ys) s = (regReadAll xs s).andThen fun vs t =>
      (regReadAll ys t).andThen fun ws u => .going (vs ++ ws) u := by
  induction xs generalizing s with
  | nil =>
    simp only [List.nil_append, regReadAll, Access.andThen_going]
    cases regReadAll ys s <;> rfl
  | cons x xs ih =>
    simp only [List.cons_append, regReadAll]
    cases regRead x s with
    | lost t => rfl
    | going v t =>
      simp only [Access.andThen_going, ih]
      cases regReadAll xs t with
      | lost u => rfl
      | going vs u =>
        simp only [Access.andThen_going]
        cases regReadAll ys u <;> rfl

/-- Where the first unanswered read is number `n`, the reads before it stand. -/
theorem regReadAll_of_lost {rs : List (Offset × Byte)} {s : State} {n : Nat} (hn : n < rs.length)
    (hquiet : ∀ r ∈ rs, readsQuietly r.1) (h : s.Finds n rs) (hlost : s.answerAt (s.accesses + n) = .noresp) :
    regReadAll (rs.map Prod.fst) s = .lost ((s.afterReads (rs.take n)).noResponse rs[n].1) := by
  have hlength : (rs.take n).length = n := List.length_take_of_le hn.le
  have hfirst : regReadAll ((rs.take n).map Prod.fst) s =
      .going ((rs.take n).map Prod.snd) (s.afterReads (rs.take n)) := by
    refine regReadAll_of_finds (fun r hr => hquiet r (List.mem_of_mem_take hr)) fun k hk r hr => ?_
    rw [hlength] at hk
    exact h k hk r (by rwa [List.getElem?_take_of_lt hk] at hr)
  have hnone : (s.afterReads (rs.take n)).readValue rs[n].1 = none := by
    rw [← State.valueAt_of_lost hlost rs[n].1, State.valueAt, State.afterReads, hlength]
    rfl
  have hsplit : rs.map Prod.fst = (rs.take n).map Prod.fst ++ rs[n].1 :: (rs.drop (n + 1)).map Prod.fst := by
    rw [← List.map_cons, ← List.drop_eq_getElem_cons hn, ← List.map_append, List.take_append_drop]
  rw [hsplit, regReadAll_append, hfirst, Access.andThen_going, regReadAll, regRead, hnone]
  rfl

/-! ### The drain as reads and two writes (42_receive.md R203 to R207) -/

/-- The offsets a drain reads, SR's included, in their order. -/
def drainOffsets (info : Byte) : List Offset :=
  2 :: bufferOffset 0 :: ((restIndices info).map bufferOffset ++ [29])

/-- What comes after the reads: RRB, message-waiting, overrun acknowledgment (42_receive.md R205 to R207). -/
def releaseMessage (f : Frame) (rmc : Byte) (s : State) : Access (Option Frame) :=
  (regWrite 1 0x04 s).andThen fun _ t =>
    (acknowledgeOverrun (t.setMsgWaiting (t.moreMessages rmc))).andThen fun _ u => .going (some f) u

/-- Where SR, if it is read, shows a message, and the frame-info byte, if it is read, is this one, TRY_RECEIVE makes one
run of reads and releases the message. -/
theorem receiveAccesses_eq {s : State} {info : Byte} (h : ∀ sr, s.valueAt 0 2 = some sr →
      sr.getLsbD 0 = true ∧ ∀ v, s.valueAt 1 (bufferOffset 0) = some v → v = info) :
    receiveAccesses s = (regReadAll (drainOffsets info) s).andThen fun bytes t =>
      releaseMessage (frameOf info (bytes.drop 2).dropLast) (bytes.getLastD 0) t := by
  rw [receiveAccesses, drainOffsets, regReadAll]
  obtain ⟨sr, hvalue, e⟩ | ⟨-, e⟩ := regRead_cases 2 s
  · obtain ⟨hsr, hinfo⟩ := h sr hvalue
    have hnext := s.valueAt_afterRead readsQuietly_sr sr 0 (bufferOffset 0)
    rw [e, Access.andThen_going, Access.andThen_going, hsr, if_pos rfl, drainMessage, readFrame, regReadAll]
    obtain ⟨v, hvalue', e'⟩ | ⟨-, e'⟩ := regRead_cases (bufferOffset 0) (s.afterRead 2 sr)
    · obtain rfl : v = info := hinfo v (hnext.symm.trans hvalue')
      rw [e', Access.andThen_going, Access.andThen_going, regReadAll_append]
      cases regReadAll ((restIndices v).map bufferOffset) ((s.afterRead 2 sr).afterRead (bufferOffset 0) v) with
      | lost u => rfl
      | going rest u =>
        simp only [Access.andThen_going, regReadAll]
        cases regRead 29 u with
        | lost w => rfl
        | going rmc w =>
          have hlast : (sr :: v :: (rest ++ [rmc])).getLastD 0 = rmc := by
            rw [← List.cons_append, ← List.cons_append, List.getLastD_concat]
          simp only [Access.andThen_going, List.drop_succ_cons, List.drop_zero, List.dropLast_concat, hlast,
            releaseMessage]
    · rw [e']
      rfl
  · rw [e]
    rfl

/-! ### The bytes a drain reads (42_receive.md R203, R204) -/

/-- The reads of a drain with the bytes they find: SR, the frame's bytes, RMC. -/
def drainReads (sr : Byte) (img : Image) (rmc : Byte) : List (Offset × Byte) :=
  (2, sr) :: ((List.range (imageLength (imageByte img 0))).map (fun k => (bufferOffset k, imageByte img k)) ++
    [(29, rmc)])

section
variable (sr : Byte) (img : Image) (rmc : Byte)

theorem drainReads_length : (drainReads sr img rmc).length = imageLength (imageByte img 0) + 2 := by
  simp [drainReads]

/-- Read `k` of a drain. -/
theorem drainReads_getElem? (k : Nat) : (drainReads sr img rmc)[k]? =
    if k = 0 then some (2, sr)
    else if k ≤ imageLength (imageByte img 0) then some (bufferOffset (k - 1), imageByte img (k - 1))
    else if k = imageLength (imageByte img 0) + 1 then some (29, rmc) else none := by
  cases k with
  | zero => rfl
  | succ k =>
    rw [drainReads, List.getElem?_cons_succ, if_neg (Nat.succ_ne_zero k), Nat.add_sub_cancel, List.getElem?_append]
    simp only [List.length_map, List.length_range, List.getElem?_map, Nat.add_one_le_iff, Nat.add_right_cancel_iff]
    split
    · rw [List.getElem?_range ‹_›]
      rfl
    split
    · simp [*]
    · rw [List.getElem?_eq_none (by simp; omega)]

/-- The buffer bytes of a message, the frame-info byte first (40_frame_codec.md R148). -/
theorem range_imageLength (info : Byte) : List.range (imageLength info) = 0 :: restIndices info := by
  rw [imageLength, Nat.add_assoc, Nat.add_comm, List.range_eq_range', List.range'_succ]
  rfl

theorem map_fst_drainReads : (drainReads sr img rmc).map Prod.fst = drainOffsets (imageByte img 0) := by
  simp [drainReads, drainOffsets, range_imageLength, Function.comp_def]

/-- The bytes of the reads hold the frame and RMC. -/
theorem map_snd_drainReads : (drainReads sr img rmc).map Prod.snd =
    sr :: imageByte img 0 :: ((restIndices (imageByte img 0)).map (imageByte img) ++ [rmc]) := by
  simp [drainReads, range_imageLength, Function.comp_def]

theorem readsQuietly_rmc : readsQuietly 29 := ⟨by decide, by decide, by decide⟩

theorem readsQuietly_drainReads : ∀ r ∈ drainReads sr img rmc, readsQuietly r.1 := by
  intro r hr
  obtain ⟨k, hk⟩ := List.getElem?_of_mem hr
  rw [drainReads_getElem?] at hk
  have hlength := (imageLength_bounds (imageByte img 0)).2
  split at hk
  · exact Option.some.inj hk ▸ readsQuietly_sr
  split at hk
  · exact Option.some.inj hk ▸ readsQuietly_buffer (by omega)
  split at hk
  · exact Option.some.inj hk ▸ readsQuietly_rmc
  · cases hk

end

/-- As far as they are answered, the reads of a drain find some bytes. -/
theorem exists_drainReads {s : State} {sr info : Byte} {n : Nat} (hresponds : s.respondsFor n)
    (hsr : 0 < n → s.valueAt 0 2 = some sr) (hinfo : 1 < n → s.valueAt 1 (bufferOffset 0) = some info) :
    ∃ (img : Image) (rmc : Byte), imageByte img 0 = info ∧ s.Finds n (drainReads sr img rmc) := by
  have hvalue {k : Nat} (hk : k < n) (off : Offset) : s.valueAt k off = some ((s.valueAt k off).getD 0) := by
    obtain ⟨v, hv, -⟩ := State.valueAt_of_responds (hresponds k hk) off
    rw [hv, Option.getD_some]
  have hlength := (imageLength_bounds info).2
  obtain ⟨img, himg⟩ : ∃ img : Image, ∀ k ≤ 12,
      imageByte img k = if k = 0 then info else (s.valueAt (k + 1) (bufferOffset k)).getD 0 :=
    ⟨Vector.ofFn fun k => if k.val = 0 then info else (s.valueAt (k + 1) (bufferOffset k)).getD 0,
      fun k hk => imageByte_ofFn _ hk⟩
  have hzero : imageByte img 0 = info := himg 0 (Nat.zero_le _)
  refine ⟨img, (s.valueAt (imageLength info + 1) 29).getD 0, hzero, fun k hk r hr => ?_⟩
  rw [drainReads_getElem?, hzero] at hr
  split at hr
  · rename_i h0
    obtain rfl := Option.some.inj hr
    exact h0 ▸ hsr (by omega)
  split at hr
  · obtain rfl := Option.some.inj hr
    by_cases h1 : k = 1
    · subst h1
      exact (hinfo hk).trans (congrArg some hzero.symm)
    · have hk1 : k - 1 + 1 = k := by omega
      rw [himg (k - 1) (by omega), if_neg (by omega), hk1]
      exact hvalue hk _
  split at hr
  · rename_i hlast
    obtain rfl := Option.some.inj hr
    subst hlast
    exact hvalue hk 29
  · cases hr

/-! ### The drain, up to any access (42_receive.md R203 to R207; 00_scope.md R16) -/

/-- What a drain with the overrun flag clear logs at the port. -/
def drainEntries (sr : Byte) (img : Image) (rmc : Byte) : List LogEntry :=
  (drainReads sr img rmc).map readEntry ++ [.wr 1 0x04]

/-- The state of a drain before access number `n`: after the reads before it, or after all of them, the RRB write and
the count of the messages left. -/
def State.drained (s : State) (sr : Byte) (img : Image) (rmc : Byte) (n : Nat) : State :=
  { s with
    status := if n = imageLength (imageByte img 0) + 3
      then { s.status with msgWaiting := decide (1 < (rmc &&& s.params.rmcMask).toNat) } else s.status,
    log := s.log ++ .sel :: (drainEntries sr img rmc).take n, accesses := s.accesses + n,
    controller := { s.controller with
      latch := s.controller.latch ++ (if n = imageLength (imageByte img 0) + 3 then [0x04] else []) } }

/-- The offset of access number `n` of a drain. -/
def drainOffset (info : Byte) (n : Nat) : Offset :=
  if n = 0 then 2 else if n ≤ imageLength info then BitVec.ofNat 7 (15 + n)
  else if n = imageLength info + 1 then 29 else 1

theorem drainReads_getElem_fst (sr : Byte) (img : Image) (rmc : Byte) {n : Nat}
    (hn : n < (drainReads sr img rmc).length) :
    (drainReads sr img rmc)[n].1 = drainOffset (imageByte img 0) n := by
  have hget := drainReads_getElem? sr img rmc n
  have hlt : n < imageLength (imageByte img 0) + 2 := drainReads_length sr img rmc ▸ hn
  rw [List.getElem?_eq_getElem hn] at hget
  unfold drainOffset
  split at hget
  · rw [if_pos ‹_›, Option.some.inj hget]
  rw [if_neg ‹_›]
  split at hget
  · have hindex : 16 + (n - 1) = 15 + n := by omega
    rw [if_pos ‹_›, Option.some.inj hget, bufferOffset, hindex]
  · rw [if_pos (by omega)] at hget
    rw [if_neg ‹_›, if_pos (by omega), Option.some.inj hget]

section
variable {s : State} {sr rmc : Byte} {img : Image}

theorem State.drained_of_reads {n : Nat} (hn : n ≤ imageLength (imageByte img 0) + 2) :
    s.drained sr img rmc n = s.select.afterReads ((drainReads sr img rmc).take n) := by
  have hlength : n ≤ (drainReads sr img rmc).length := (drainReads_length sr img rmc).symm ▸ hn
  have hrelease : n ≠ imageLength (imageByte img 0) + 3 := by omega
  simp [State.drained, State.afterReads, drainEntries, hrelease, List.take_append_of_le_length, hlength]

/-- The RRB write, answered, after all reads. -/
theorem State.drained_release (s : State) (sr : Byte) (img : Image) (rmc : Byte) :
    let t := (s.drained sr img rmc (imageLength (imageByte img 0) + 2)).afterWrite 1 0x04
    t.setMsgWaiting (t.moreMessages rmc) = s.drained sr img rmc (imageLength (imageByte img 0) + 3) := by
  have hall : (drainEntries sr img rmc).take (imageLength (imageByte img 0) + 2) =
      (drainReads sr img rmc).map readEntry := by
    rw [drainEntries, List.take_append_of_le_length (by simp [drainReads_length]), List.take_of_length_le]
    simp [drainReads_length]
  have hall' : (drainEntries sr img rmc).take (imageLength (imageByte img 0) + 3) = drainEntries sr img rmc :=
    List.take_of_length_le (by simp [drainEntries, drainReads_length])
  simp only [State.drained, hall, hall']
  simp [State.afterWrite, State.record, State.countAccess, State.withController, State.withStatus, State.moreMessages,
    Controller.afterWrite, drainEntries, Nat.add_assoc]

/-- Before the overrun acknowledgment the cached flag is as it was. -/
theorem State.drained_dataOverrun (s : State) (sr : Byte) (img : Image) (rmc : Byte) (n : Nat) :
    (s.drained sr img rmc n).status.dataOverrun = s.status.dataOverrun := by
  simp only [State.drained]
  split <;> rfl

theorem acknowledgeOverrun_of_set (h : s.status.dataOverrun = true) :
    acknowledgeOverrun s = (regWrite 1 0x08 s).andThen fun _ t => .going () (t.setDataOverrun false) := if_pos h

theorem acknowledgeOverrun_of_clear (h : s.status.dataOverrun = false) : acknowledgeOverrun s = .going () s :=
  if_neg (by simp [h])

/-- TRY_RECEIVE as the drain of a message, where SR shows one, as far as the accesses are answered. -/
theorem receiveAccesses_eq_drain {n : Nat} (hsr : 0 < n → sr.getLsbD 0 = true)
    (hfinds : s.Finds n (drainReads sr img rmc)) (hend : n < 2 → s.answerAt (s.accesses + n) = .noresp) :
    receiveAccesses s = (regReadAll ((drainReads sr img rmc).map Prod.fst) s).andThen fun bytes t =>
      releaseMessage (frameOf (imageByte img 0) (bytes.drop 2).dropLast) (bytes.getLastD 0) t := by
  have hlength := (imageLength_bounds (imageByte img 0)).1
  rw [map_fst_drainReads]
  have hreached {k : Nat} {off : Offset} {v : Byte} (hk : k < 2) (hle : k ≤ n) (hv : s.valueAt k off = some v) :
      k < n := by
    refine Nat.lt_of_le_of_ne hle fun hkn => ?_
    rw [State.valueAt_of_lost (hkn ▸ hend (hkn ▸ hk))] at hv
    cases hv
  refine receiveAccesses_eq fun sr' hvalue => ?_
  have hpos : 0 < n := hreached (by omega) (Nat.zero_le n) hvalue
  obtain rfl := Option.some.inj (hvalue.symm.trans (hfinds 0 hpos (2, sr) rfl))
  refine ⟨hsr hpos, fun v hvalue' => ?_⟩
  have hone : 1 < n := hreached (by omega) hpos hvalue'
  have hget := drainReads_getElem? sr' img rmc 1
  rw [if_neg one_ne_zero, if_pos (by omega)] at hget
  exact Option.some.inj (hvalue'.symm.trans (hfinds 1 hone _ hget))

/-- A lost read ends the drain. -/
theorem receiveAccesses_of_lost_read {n : Nat} (hn : n < imageLength (imageByte img 0) + 2)
    (hsr : 0 < n → sr.getLsbD 0 = true) (hfinds : s.Finds n (drainReads sr img rmc))
    (hlost : s.answerAt (s.accesses + n) = .noresp) :
    receiveAccesses s.select = .lost ((s.drained sr img rmc n).noResponse (drainOffset (imageByte img 0) n)) := by
  have hn' : n < (drainReads sr img rmc).length := (drainReads_length sr img rmc).symm ▸ hn
  rw [receiveAccesses_eq_drain (s := s.select) hsr hfinds fun _ => hlost,
    regReadAll_of_lost (s := s.select) hn' (readsQuietly_drainReads sr img rmc) hfinds hlost, Access.andThen_lost,
    drainReads_getElem_fst, State.drained_of_reads hn.le]

/-- The frame in the bytes of the reads is the image's. -/
theorem frameOf_drainReads (sr : Byte) (img : Image) (rmc : Byte) :
    frameOf (imageByte img 0) (((drainReads sr img rmc).map Prod.snd).drop 2).dropLast = decodeImage img := by
  rw [map_snd_drainReads, List.drop_succ_cons, List.drop_succ_cons, List.drop_zero, List.dropLast_concat]
  rfl

theorem getLastD_drainReads (sr : Byte) (img : Image) (rmc : Byte) :
    ((drainReads sr img rmc).map Prod.snd).getLastD 0 = rmc := by
  rw [map_snd_drainReads, ← List.cons_append, ← List.cons_append, List.getLastD_concat]

section
variable (hsr : sr.getLsbD 0 = true)
  (hfinds : s.Finds (imageLength (imageByte img 0) + 2) (drainReads sr img rmc))
include hsr hfinds

/-- With all reads answered the message is released. -/
theorem receiveAccesses_of_finds : receiveAccesses s.select =
    releaseMessage (decodeImage img) rmc (s.drained sr img rmc (imageLength (imageByte img 0) + 2)) := by
  have hlength := (imageLength_bounds (imageByte img 0)).1
  have hfinds' : s.select.Finds (drainReads sr img rmc).length (drainReads sr img rmc) :=
    (drainReads_length sr img rmc).symm ▸ hfinds
  rw [receiveAccesses_eq_drain (s := s.select) (fun _ => hsr) hfinds (by omega),
    regReadAll_of_finds (readsQuietly_drainReads sr img rmc) hfinds', Access.andThen_going, frameOf_drainReads,
    getLastD_drainReads, State.drained_of_reads le_rfl, List.take_of_length_le (drainReads_length sr img rmc).le]

/-- A lost RRB write ends the drain before any flag. -/
theorem receiveAccesses_of_lost_release
    (hlost : s.answerAt (s.accesses + (imageLength (imageByte img 0) + 2)) = .noresp) :
    receiveAccesses s.select =
      .lost ((s.drained sr img rmc (imageLength (imageByte img 0) + 2)).noResponse 1) := by
  have hwrite : regWrite 1 0x04 (s.drained sr img rmc (imageLength (imageByte img 0) + 2)) = .lost _ := if_pos hlost
  rw [receiveAccesses_of_finds hsr hfinds, releaseMessage, hwrite, Access.andThen_lost]

/-- With RRB written the overrun acknowledgment is left. -/
theorem receiveAccesses_of_released
    (hresponds : s.answerAt (s.accesses + (imageLength (imageByte img 0) + 2)) ≠ .noresp) :
    receiveAccesses s.select =
      (acknowledgeOverrun (s.drained sr img rmc (imageLength (imageByte img 0) + 3))).andThen fun _ u =>
        .going (some (decodeImage img)) u := by
  have hwrite : regWrite 1 0x04 (s.drained sr img rmc (imageLength (imageByte img 0) + 2)) = .going () _ :=
    regWrite_of_responds hresponds
  rw [receiveAccesses_of_finds hsr hfinds, releaseMessage, hwrite, Access.andThen_going, State.drained_release]

end

/-- A drain ends at any access without response, after what the accesses before it did. -/
theorem receiveAccesses_of_lost {n : Nat}
    (hn : n < imageLength (imageByte img 0) + if s.status.dataOverrun then 4 else 3)
    (hsr : 0 < n → sr.getLsbD 0 = true) (hfinds : s.Finds n (drainReads sr img rmc)) (hresponds : s.respondsFor n)
    (hlost : s.answerAt (s.accesses + n) = .noresp) :
    receiveAccesses s.select = .lost ((s.drained sr img rmc n).noResponse (drainOffset (imageByte img 0) n)) := by
  obtain hlt | hge := Nat.lt_or_ge n (imageLength (imageByte img 0) + 2)
  · exact receiveAccesses_of_lost_read hlt hsr hfinds hlost
  have hwrite : drainOffset (imageByte img 0) n = 1 := by
    rw [drainOffset, if_neg (by omega), if_neg (by omega), if_neg (by omega)]
  have hbytes : s.Finds (imageLength (imageByte img 0) + 2) (drainReads sr img rmc) := fun k hk => hfinds k (by omega)
  rw [hwrite]
  obtain rfl | hgt := Nat.eq_or_lt_of_le hge
  · exact receiveAccesses_of_lost_release (hsr (by omega)) hbytes hlost
  · have hset : s.status.dataOverrun = true := by
      by_contra hclear
      rw [if_neg hclear] at hn
      omega
    rw [if_pos hset] at hn
    obtain rfl : n = imageLength (imageByte img 0) + 3 := by omega
    have hcdo : regWrite 1 0x08 (s.drained sr img rmc (imageLength (imageByte img 0) + 3)) = .lost _ := if_pos hlost
    rw [receiveAccesses_of_released (hsr (by omega)) hbytes (hresponds _ (by omega)),
      acknowledgeOverrun_of_set (by rw [State.drained_dataOverrun, hset]), hcdo, Access.andThen_lost,
      Access.andThen_lost]

/-- The state of a drain after all its accesses: CDO follows, and clears the cached flag, where it was set. -/
def State.acknowledged (s : State) : State :=
  if s.status.dataOverrun then (s.afterWrite 1 0x08).setDataOverrun false else s

/-- A drain whose accesses are all answered. -/
theorem receiveAccesses_of_responds (hsr : sr.getLsbD 0 = true)
    (hfinds : s.Finds (imageLength (imageByte img 0) + 2) (drainReads sr img rmc))
    (hresponds : s.respondsFor (imageLength (imageByte img 0) + if s.status.dataOverrun then 4 else 3)) :
    receiveAccesses s.select = .going (some (decodeImage img))
      (s.drained sr img rmc (imageLength (imageByte img 0) + 3)).acknowledged := by
  rw [receiveAccesses_of_released hsr hfinds (hresponds _ (by split <;> omega)), State.acknowledged,
    State.drained_dataOverrun]
  cases hoverrun : s.status.dataOverrun with
  | false =>
    rw [acknowledgeOverrun_of_clear (by rw [State.drained_dataOverrun, hoverrun]), Access.andThen_going,
      if_neg Bool.false_ne_true]
  | true =>
    have hcdo : regWrite 1 0x08 (s.drained sr img rmc (imageLength (imageByte img 0) + 3)) = .going () _ :=
      regWrite_of_responds (hresponds _ (by rw [hoverrun]; exact Nat.lt_succ_self _))
    rw [acknowledgeOverrun_of_set (by rw [State.drained_dataOverrun, hoverrun]), hcdo, Access.andThen_going,
      Access.andThen_going, if_pos rfl]

end

/-! ### The two outcomes (42_receive.md R206 to R208; 00_scope.md R16) -/

theorem drainEntries_eq (sr : Byte) (img : Image) (rmc : Byte) : drainEntries sr img rmc =
    .rd 2 sr :: ((List.range (imageLength (imageByte img 0))).map
      (fun k => .rd (BitVec.ofNat 7 (16 + k)) (imageByte img k)) ++ [.rd 29 rmc, .wr 1 0x04]) := by
  simp [drainEntries, drainReads, bufferOffset, Function.comp_def]

/-- The flags, the log and the latch after a drain. -/
theorem State.acknowledged_drained (s : State) (sr : Byte) (img : Image) (rmc : Byte) :
    (s.drained sr img rmc (imageLength (imageByte img 0) + 3)).acknowledged = { s with
      status := { s.status with
        msgWaiting := decide (1 < (rmc &&& s.params.rmcMask).toNat), dataOverrun := false },
      log := s.log ++ .sel :: (drainEntries sr img rmc ++ if s.status.dataOverrun then [.wr 1 0x08] else []),
      accesses := s.accesses + imageLength (imageByte img 0) + (if s.status.dataOverrun then 4 else 3),
      controller := { s.controller with
        latch := s.controller.latch ++ (0x04 :: if s.status.dataOverrun then [0x08] else []) } } := by
  have hall : (drainEntries sr img rmc).take (imageLength (imageByte img 0) + 3) = drainEntries sr img rmc :=
    List.take_of_length_le (by simp [drainEntries, drainReads_length])
  rw [State.acknowledged, State.drained_dataOverrun]
  cases hoverrun : s.status.dataOverrun with
  | false => simp [State.drained, hall, hoverrun, Nat.add_assoc]
  | true =>
    simp [State.drained, hall, State.afterWrite, Controller.afterWrite, State.record, State.countAccess,
      State.withController, State.withStatus, Nat.add_assoc]

/-- The end of a drain: the deselect, the event of the frame, the status change, the frame (42_receive.md R208). -/
theorem finishReceive_frame (start : State) (f : Frame) (t : State) : finishReceive start (some f) t = { t with
    log := t.log ++ ([.desel, .frameReceived f] ++ statusChangeBetween start (finishReceive start (some f) t)),
    response := some { result := .ok, outs := .frame (some f) } } := by
  refine (State.emitIfChanged_respond start _ _ _).trans ?_
  simp [finishReceive, State.recordFrame, State.record]

/-- A drain whose accesses are all answered, and what it leaves. -/
theorem exec_tryReceive_of_drained {s : State} {sr rmc : Byte} {img : Image} (hfault : s.devFault = false)
    (hmode : s.mode.op = .operating) (hsr : sr.getLsbD 0 = true)
    (hfinds : s.Finds (imageLength (imageByte img 0) + 2) (drainReads sr img rmc))
    (hresponds : s.respondsFor (imageLength (imageByte img 0) + if s.status.dataOverrun then 4 else 3)) :
    ∃ t, exec .tryReceive s = .next t ∧ t = { s with
      status := { s.status with
        msgWaiting := decide (1 < (rmc &&& s.params.rmcMask).toNat), dataOverrun := false },
      log := s.log ++ .sel :: (drainEntries sr img rmc ++ if s.status.dataOverrun then [.wr 1 0x08] else []) ++
        ([.desel, .frameReceived (decodeImage img)] ++ statusChangeBetween s t),
      response := some { result := .ok, outs := .frame (some (decodeImage img)) },
      accesses := s.accesses + imageLength (imageByte img 0) + (if s.status.dataOverrun then 4 else 3),
      controller := { s.controller with
        latch := s.controller.latch ++ (0x04 :: if s.status.dataOverrun then [0x08] else []) } } := by
  refine ⟨_, exec_tryReceive_of_admitted hfault hmode, ?_⟩
  rw [receiveAccesses_of_responds hsr hfinds hresponds, Access.conclude_going, State.acknowledged_drained]
  exact finishReceive_frame s _ _

/-- A byte that the controller answers is the byte found. -/
theorem State.Finds.eq_of_byte {s : State} {n k : Nat} {rs : List (Offset × Byte)} {r : Offset × Byte} {v : Byte}
    (h : s.Finds n rs) (hk : k < n) (hr : rs[k]? = some r) (hanswer : s.answerAt (s.accesses + k) = .byte v) :
    r.2 = v := by
  obtain ⟨w, hw, hbyte⟩ := State.valueAt_of_responds (s := s) (k := k) (by rw [hanswer]; nofun) r.1
  exact (Option.some.inj ((h k hk r hr).symm.trans hw)).trans (hbyte v hanswer)

/-- Settles O22: the drain with every access answered, and the drain with any one of them lost. -/
theorem tryReceiveDrainsAMessage : Obligations.TryReceiveDrainsAMessage := by
  unfold Obligations.TryReceiveDrainsAMessage
  constructor
  · intro s sr info hfault hmode hvalue hsr hvalue' hresponds
    obtain ⟨img, rmc, rfl, hfinds⟩ := exists_drainReads hresponds (fun _ => hvalue) fun _ => hvalue'
    have hbytes : s.Finds (imageLength (imageByte img 0) + 2) (drainReads sr img rmc) := fun k hk =>
      hfinds k (by split <;> omega)
    obtain ⟨t, hexec, ht⟩ := exec_tryReceive_of_drained hfault hmode hsr hbytes hresponds
    refine ⟨t, img, rmc, rfl, hexec, (congrArg State.log ht).trans (by simp [drainEntries_eq]),
      fun k v hk hanswer => ?_, fun v hanswer => ?_, congrArg State.status ht, congrArg State.response ht, by rw [ht]⟩
    · have hget := drainReads_getElem? sr img rmc (k + 1)
      rw [if_neg (by omega), if_pos (by omega), Nat.add_sub_cancel] at hget
      exact hbytes.eq_of_byte (k := k + 1) (by omega) hget (by rwa [Nat.add_comm k 1, ← Nat.add_assoc])
    · have hget := drainReads_getElem? sr img rmc (imageLength (imageByte img 0) + 1)
      rw [if_neg (by omega), if_neg (by omega), if_pos rfl] at hget
      exact hbytes.eq_of_byte (by omega) hget (by rwa [Nat.add_comm _ 1, ← Nat.add_assoc])
  · intro s sr info n hfault hmode hvalue hvalue' hresponds hlost len hn
    obtain ⟨img, rmc, rfl, hfinds⟩ := exists_drainReads hresponds (fun h => (hvalue h).1) hvalue'
    have haccesses := receiveAccesses_of_lost hn (fun h => (hvalue h).2) hfinds hresponds hlost
    refine ⟨_, img, rmc, rfl, exec_tryReceive_of_admitted hfault hmode, ?_⟩
    rw [haccesses, Access.conclude_lost]
    refine (deviceNotResponding_eq_statusChange s _).trans ?_
    simp [State.drained, State.noResponse, State.record, State.countAccess, drainEntries_eq, drainOffset, len]

end Sys2Proof.Machine
end

section
/-! The commands of 43_status_decoder.md that access no register: DECODE_ECC, DECODE_ALC, CLASSIFY and ACK_EVENTS. -/

namespace Sys2Proof.Machine

/-! ### DECODE_ECC and DECODE_ALC (43_status_decoder.md R230, R231, R235) -/

/-- Bits 4:0 of a byte, as a number. -/
theorem extractLsb'_low_five (b : Byte) : b.extractLsb' 0 5 = BitVec.ofNat 5 b.toNat := by
  rw [BitVec.extractLsb', Nat.shiftRight_zero]

theorem toNat_low_five (b : Byte) : (b.extractLsb' 0 5).toNat = b.toNat % 32 := by
  rw [extractLsb'_low_five, BitVec.toNat_ofNat]

/-- Bits 7:6 of a byte select the error code. -/
theorem errorCode_eq (b : Byte) : [ErrorCode.bit, .form, .stuff, .other][b.toNat / 64]? = some (errorCode b) := by
  have hcode : (b.extractLsb' 6 2).toNat = b.toNat / 64 := by
    rw [BitVec.extractLsb'_toNat, Nat.shiftRight_eq_div_pow]
    omega
  have hlt : b.toNat / 64 < 4 := by omega
  rw [errorCode, hcode]
  generalize b.toNat / 64 = k at hlt
  interval_cases k <;> rfl

/-- The 32 segment codes, against the table. -/
theorem segName_eq_lookup : ∀ c : BitVec 5, segName c = (segmentTable.lookup c.toNat).getD (.reserved c) := by
  decide

/-- Settles O25: the segment of bits 4:0 by the table, the error code of bits 7:6. -/
theorem decodeEccCompletes : Obligations.DecodeEccCompletes := by
  unfold Obligations.DecodeEccCompletes
  intro b s
  refine ⟨errorCode b, _, segName (b.extractLsb' 0 5), rfl, errorCode_eq b, ?_, ?_⟩
  · have hdir : b.getLsbD 5 = true ↔ b.toNat / 32 % 2 ≠ 0 := by
      rw [BitVec.getLsbD, Nat.testBit_eq_decide_div_mod_eq, decide_eq_true_iff]
      omega
    by_cases h : b.toNat / 32 % 2 = 0
    · rw [if_pos h, if_neg (fun hbit => hdir.mp hbit h)]
    · rw [if_neg h, if_pos (hdir.mpr h)]
  · rw [segName_eq_lookup, toNat_low_five, extractLsb'_low_five]

/-- Settles O26: the five ranges of the bit number. -/
theorem decodeAlcCompletes : Obligations.DecodeAlcCompletes := by
  unfold Obligations.DecodeAlcCompletes
  intro b s
  refine ⟨alcField (b.toNat % 32), ?_, fun h => ?_, fun h => ?_, fun h => ?_, fun h h' => ?_, fun h => ?_⟩
  · rw [← extractLsb'_low_five, ← toNat_low_five]
    rfl
  · rw [alcField, if_pos h]
  · rw [h]
    rfl
  · rw [h]
    rfl
  · rw [alcField, if_neg (by omega), if_neg (by omega), if_neg (by omega), if_pos h']
  · rw [h]
    rfl

/-! ### CLASSIFY (43_status_decoder.md R240) -/

/-- Settles O27: one case per class, in the order of the tests. -/
theorem classifyCompletes : Obligations.ClassifyCompletes := by
  unfold Obligations.ClassifyCompletes
  intro sr ewlr rxerr txerr s
  refine ⟨classify s.params sr ewlr rxerr txerr, rfl, ?_⟩
  simp only [classify, getLsbD_seven_iff]
  split
  · simp [*]
  split
  · simp [*]
  split <;> simp [*]

/-! ### ACK_EVENTS (43_status_decoder.md R260) -/

/-- Settles O32: the event is that of the whole operation, and there is none where both flags were 0. -/
theorem ackEventsCompletes : Obligations.AckEventsCompletes := by
  unfold Obligations.AckEventsCompletes
  intro s
  have hend := State.emitIfChanged_respond s ((s.setArbLost false).setBusError false) .ok .none
  refine ⟨_, rfl, hend, fun harb hbus => ?_⟩
  have hkept : (s.setArbLost false).setBusError false = s := by
    obtain ⟨⟨⟩, _⟩ := s
    subst harb hbus
    rfl
  rw [hkept, State.emitIfChanged, if_pos ⟨rfl, rfl⟩]
  rfl

end Sys2Proof.Machine
end

section
/-! HANDLE_INTERRUPT around its dispatch (43_status_decoder.md R245, R254, R255): the admission, the one read of IR, the
end of the operation; the spurious interrupt, and the offsets it never accesses, whatever the answers. -/

namespace Sys2Proof.Machine

/-! ### The IR read and the end of the operation (43_status_decoder.md R245, R254) -/

/-- The end of HANDLE_INTERRUPT after its last access was answered. -/
def finishInterrupt (start : State) (r : Byte × Option Bool) (t : State) : State :=
  (start.emitIfChanged ((t.deselect.recordTxDone r.2).recordWakeUp r.1)).respond .ok .none

/-- Without a fault, HANDLE_INTERRUPT comes to its accesses. -/
theorem exec_handleInterrupt_of_admitted {s : State} (hfault : s.devFault = false) :
    exec .handleInterrupt s = .next ((interruptAccesses s.select).conclude s (finishInterrupt s)) := by
  change Host.Outcome.next _ = _
  rw [if_neg (by simp [hfault])]
  rfl

/-- A read that gets no response. -/
theorem regRead_of_lost {s : State} (h : s.answerAt s.accesses = .noresp) (off : Offset) :
    regRead off s = .lost (s.noResponse off) := by
  have hnone : s.readValue off = none := by simp only [State.readValue, h]
  rw [regRead, hnone]

/-- The state after the IR read, which opens the bracket. -/
def State.irRead (s : State) (ir : Byte) : State :=
  { s with
    log := s.log ++ [.sel, .rd 3 ir], accesses := s.accesses + 1, controller := s.controller.afterRead 3 ir }

/-- Where IR is answered, the branches of its snapshot follow. -/
theorem interruptAccesses_of_value {s : State} {ir : Byte} (h : s.readValue 3 = some ir) :
    interruptAccesses s.select = (dispatchSnapshot ir (s.irRead ir)).andThen fun done u => .going (ir, done) u := by
  have hvalue : s.select.readValue 3 = some ir := h
  have hstate : s.select.afterRead 3 ir = s.irRead ir := by
    simp [State.irRead, State.afterRead, State.record, State.countAccess, State.withController]
  rw [interruptAccesses, regRead_of_value hvalue, Access.andThen_going, hstate]

/-- Where IR is lost, so is the operation. -/
theorem interruptAccesses_of_lost {s : State} (h : s.answerAt s.accesses = .noresp) :
    interruptAccesses s.select = .lost (s.select.noResponse 3) := by
  rw [interruptAccesses, regRead_of_lost (s := s.select) h, Access.andThen_lost]

theorem State.recordTxDone_eq (s : State) (done : Option Bool) :
    s.recordTxDone done = { s with log := s.log ++ done.toList.map .txDone } := by
  cases done with
  | none => simp [State.recordTxDone]
  | some c => rfl

theorem State.recordWakeUp_eq (s : State) (ir : Byte) :
    s.recordWakeUp ir = { s with log := s.log ++ if ir.getLsbD 4 then [.wakeUp] else [] } := by
  unfold State.recordWakeUp
  split
  · rfl
  · simp

/-- The events of an interrupt: the deselect, `tx_done`, `wake_up`, the status change, the result. -/
theorem finishInterrupt_eq (start : State) (ir : Byte) (done : Option Bool) (t : State) :
    finishInterrupt start (ir, done) t = { t with
      log := t.log ++ ([.desel] ++ done.toList.map .txDone ++ (if ir.getLsbD 4 then [.wakeUp] else []) ++
        statusChangeBetween start (finishInterrupt start (ir, done) t)),
      response := some { result := .ok, outs := .none } } := by
  refine (State.emitIfChanged_respond start _ _ _).trans ?_
  simp only [State.recordTxDone_eq, State.recordWakeUp_eq, finishInterrupt]
  simp

theorem finishInterrupt_reports (start : State) (r : Byte × Option Bool) (t : State) :
    Reports t.deselect (finishInterrupt start r t) :=
  ((((Reports.refl t.deselect).recordTxDone r.2).recordWakeUp r.1).emitIfChanged start).respond _ _

/-! ### The register cells after the IR read (20_memory.md R65) -/

/-- Writing a cell leaves the others, whatever form the memory has. -/
theorem Memory.read_write_of_ne (m : Memory) {a b : Nat} (v : Byte) (h : a ≠ b) :
    (m.write b v).read a = m.read a := by
  have hcons (m : Memory) : (Memory.consCell b v m).read a = m.read a := by
    unfold Memory.consCell
    split
    · rfl
    · exact if_neg h
  induction m with
  | nil => exact hcons []
  | cons c m ih =>
    obtain ⟨d, w⟩ := c
    unfold Memory.write
    split
    · exact hcons _
    split
    · rename_i hbd
      rw [hcons m, Memory.read, if_neg (hbd ▸ h)]
    · rw [Memory.read, Memory.read, ih]

/-- The IR read leaves every cell but IR's. -/
theorem Controller.afterRead_ir_of_ne (c : Controller) (v : Byte) {a : Nat} (h : a ≠ 3) :
    (c.afterRead 3 v).regs.read a = c.regs.read a := Memory.read_write_of_ne c.regs _ h

/-! ### The spurious interrupt (43_status_decoder.md R245) -/

/-- An IR read that returns 0x00 changes no cell. -/
theorem Controller.afterRead_ir_zero {c : Controller} (h : c.regs.wf = true) (a : Nat) :
    (c.afterRead 3 0x00).regs.read a = c.regs.read a := by
  obtain ⟨hir, hother, -⟩ := Controller.afterRead_ir h 0x00 0
  by_cases ha : a = 3
  · rw [ha, Controller.read_eq_cell _ rfl 0, Controller.read_eq_cell c rfl 0, hir]
    exact congrArg some BitVec.and_allOnes
  · exact hother a ha

/-- Settles O29: with no bit set no branch runs, so nothing changed and there is no event. -/
theorem spuriousInterruptChangesNothing : Obligations.SpuriousInterruptChangesNothing := by
  unfold Obligations.SpuriousInterruptChangesNothing
  intro s hwf hfault hvalue
  have hdispatch (t : State) : dispatchSnapshot 0x00 t = .going none t := rfl
  have hend : finishInterrupt s (0x00, none) (s.irRead 0x00) = { s with
      log := s.log ++ [.sel, .rd 3 0x00, .desel], accesses := s.accesses + 1,
      response := some { result := .ok, outs := .none }, controller := s.controller.afterRead 3 0x00 } := by
    rw [finishInterrupt, State.emitIfChanged, if_pos ⟨rfl, rfl⟩]
    simp [State.recordTxDone, State.recordWakeUp, State.respond, State.record, State.irRead]
  refine ⟨_, exec_handleInterrupt_of_admitted hfault, ?_⟩
  rw [interruptAccesses_of_value hvalue, hdispatch, Access.andThen_going, Access.conclude_going, hend]
  exact ⟨rfl, rfl, Controller.afterRead_ir_zero hwf⟩

/-! ### One IR read, first, and no write (43_status_decoder.md R254, R255) -/

/-- Neither a write nor an access at IR. -/
def SparesIr (e : LogEntry) : Prop := e.isWrite = false ∧ (∀ v, e ≠ .rd 3 v) ∧ e ≠ .noResp 3

theorem allowsRead_sparesIr {off : Offset} (h : off ≠ 3) : AllowsRead SparesIr off :=
  ⟨fun _ => ⟨rfl, fun _ he => h (LogEntry.rd.inj he).1, nofun⟩, rfl, nofun, fun he => h (LogEntry.noResp.inj he)⟩

theorem sparesIr_of_isOutside {e : LogEntry} (h : e.isOutside = true) : SparesIr e := by
  cases e <;> simp_all [SparesIr, LogEntry.isOutside, LogEntry.isWrite]

/-- The branches read ECC, ALC, SR, EWLR, RXERR and TXERR at most. -/
theorem dispatchSnapshot_follows {P : LogEntry → Prop}
    (hread : ∀ off ∈ ([2, 11, 12, 13, 14, 15] : List Offset), AllowsRead P off) (ir : Byte) (s : State) :
    (dispatchSnapshot ir s).Follows s P :=
  (onBusError_follows (hread 12 (by decide)) ir _).of_onOverrun.andThen fun _ t =>
    (onArbLost_follows (hread 11 (by decide)) ir t).andThen fun _ u =>
      (onErrorState_follows (hread 2 (by decide)) (hread 13 (by decide)) (hread 14 (by decide))
        (hread 15 (by decide)) ir u).andThen fun _ _ => (onTransmit_follows (hread 2 (by decide)) ir _).of_onReceive

/-- What a sequence of accesses logs, lost or not, has the property of each of its accesses. -/
theorem Access.Follows.last_log {α : Type} {s : State} {P : LogEntry → Prop} {a : Access α} (h : a.Follows s P) :
    ∃ accs, a.last.log = s.log ++ accs ∧ ∀ e ∈ accs, P e := by
  cases a with
  | going v u =>
    obtain ⟨accs, hlog, -, hall, -⟩ := h
    exact ⟨accs, hlog, hall⟩
  | lost u =>
    obtain ⟨accs, off, hlog, -, hall, hlost, -⟩ := h
    exact ⟨accs ++ [LogEntry.noResp off], hlog,
      List.forall_mem_append.mpr ⟨hall, List.forall_mem_singleton.mpr hlost⟩⟩

/-- The first access of HANDLE_INTERRUPT is at IR, and none after it. -/
theorem interruptAccesses_log (s : State) : ∃ e accs, (interruptAccesses s).last.log = s.log ++ e :: accs ∧
    ((∃ v, e = .rd 3 v) ∨ e = .noResp 3) ∧ ∀ x ∈ accs, SparesIr x := by
  rw [interruptAccesses]
  obtain ⟨ir, -, e⟩ | ⟨-, e⟩ := regRead_cases 3 s
  · have hread : ∀ off ∈ ([2, 11, 12, 13, 14, 15] : List Offset), AllowsRead SparesIr off := fun off hoff =>
      allowsRead_sparesIr (by rintro rfl; revert hoff; decide)
    have hbranches := (dispatchSnapshot_follows hread ir (s.afterRead 3 ir)).andThen
      (k := fun done u => .going (ir, done) u) fun done u => follows_going _ rfl (SamePort.refl u)
    obtain ⟨accs, hlog, hall⟩ := hbranches.last_log
    rw [e]
    exact ⟨.rd 3 ir, accs, hlog.trans (by simp [State.afterRead]), .inl ⟨ir, rfl⟩, hall⟩
  · rw [e]
    exact ⟨.noResp 3, [], rfl, .inr rfl, by simp⟩

/-- Settles O30: the IR read, branches that spare IR, and events. -/
theorem interruptReadsIrOnceAndWritesNothing : Obligations.InterruptReadsIrOnceAndWritesNothing := by
  unfold Obligations.InterruptReadsIrOnceAndWritesNothing
  intro s hfault
  obtain ⟨e, accs, hlog, he, hall⟩ := interruptAccesses_log s.select
  obtain ⟨evs, hend, hevs⟩ := (conclude_reports s (interruptAccesses s.select) (finishInterrupt_reports s)).events
  have hspares : ∀ x ∈ accs ++ LogEntry.desel :: evs, SparesIr x :=
    List.forall_mem_append.mpr ⟨hall, List.forall_mem_cons.mpr ⟨⟨rfl, nofun, nofun⟩,
      fun x hx => sparesIr_of_isOutside (List.all_eq_true.mp hevs x hx)⟩⟩
  refine ⟨_, e, accs ++ .desel :: evs, exec_handleInterrupt_of_admitted hfault, ?_, he, ?_, fun v hmem => ?_,
    fun hmem => ?_⟩
  · rw [hend, State.deselect, State.record_log, hlog]
    simp
  · refine List.any_eq_false.mpr fun x hx => ?_
    rw [(hspares x hx).1]
    exact Bool.false_ne_true
  · obtain ⟨-, hrd, -⟩ := hspares _ hmem
    exact hrd v rfl
  · obtain ⟨-, -, hlost⟩ := hspares _ hmem
    exact hlost rfl

end Sys2Proof.Machine
end

section
/-! The dispatch of HANDLE_INTERRUPT (43_status_decoder.md R241 to R253): what its branches leave, each branch by
itself, then the dispatch as a whole up to any of its reads, answered or lost. -/

namespace Sys2Proof.Machine

/-! ### Accesses one after another -/

/-- Accesses one after another may be grouped either way. -/
theorem Access.andThen_assoc {α β γ : Type} (a : Access α) (f : α → State → Access β)
    (g : β → State → Access γ) :
    (a.andThen f).andThen g = a.andThen fun v s => (f v s).andThen g := by
  cases a <;> rfl

/-- An answer still to come, counted from a state before. -/
theorem State.answerAt_shift {s t : State} {m k : Nat} {a : Config.Answer} (h : s.answerAt (s.accesses + (m + k)) = a)
    (ha : t.answers = s.answers) (hn : t.accesses = s.accesses + m) : t.answerAt (t.accesses + k) = a := by
  rw [← h, State.answerAt, State.answerAt, ha, hn, Nat.add_assoc]

theorem State.respondsFor_shift {s t : State} {m n : Nat} (h : s.respondsFor (m + n)) (ha : t.answers = s.answers)
    (hn : t.accesses = s.accesses + m) : t.respondsFor n := fun k hk => by
  rw [State.answerAt_shift rfl ha hn]
  exact h (m + k) (Nat.add_lt_add_left hk m)

/-! ### What a snapshot calls for (43_status_decoder.md R246 to R251) -/

/-- The causes that one IR snapshot gives to the branches. -/
structure Causes where
  overrun : Bool
  busError : Bool
  arbLost : Bool
  errorState : Bool
  receive : Bool
  transmit : Bool

/-- DOI, BEI, ALI, EPI or EI, RI and TI. -/
def causesOf (ir : Byte) : Causes where
  overrun := ir.getLsbD 3
  busError := ir.getLsbD 7
  arbLost := ir.getLsbD 6
  errorState := ir.getLsbD 5 || ir.getLsbD 2
  receive := ir.getLsbD 0
  transmit := ir.getLsbD 1

/-- How many reads come before the ALC read. -/
def Causes.arbLostAt (c : Causes) : Nat := if c.busError then 1 else 0

/-- How many reads come before the classification. -/
def Causes.errorStateAt (c : Causes) : Nat := c.arbLostAt + if c.arbLost then 1 else 0

/-- How many reads come before the TI read of SR. -/
def Causes.transmitAt (c : Causes) : Nat := c.errorStateAt + if c.errorState then 4 else 0

theorem Causes.errorStateAt_of_arbLost {c : Causes} (h : c.arbLost = true) :
    c.errorStateAt = c.arbLostAt + 1 := by
  rw [Causes.errorStateAt, if_pos h]

theorem Causes.transmitAt_of_errorState {c : Causes} (h : c.errorState = true) :
    c.transmitAt = c.errorStateAt + 4 := by
  rw [Causes.transmitAt, if_pos h]

theorem Causes.arbLostAt_le (c : Causes) : c.arbLostAt ≤ c.errorStateAt := Nat.le_add_right _ _

theorem Causes.errorStateAt_le (c : Causes) : c.errorStateAt ≤ c.transmitAt := Nat.le_add_right _ _

/-- The bytes a classification reads (43_status_decoder.md R241). -/
structure ClassBytes where
  sr : Byte
  ewlr : Byte
  rxerr : Byte
  txerr : Byte

def ClassBytes.reads (b : ClassBytes) : List (Offset × Byte) :=
  [(2, b.sr), (13, b.ewlr), (14, b.rxerr), (15, b.txerr)]

def ClassBytes.cls (b : ClassBytes) (p : Config.Params) : BusClass := classify p b.sr b.ewlr b.rxerr b.txerr

/-- What a dispatch logs before the TI read of SR. -/
def dispatchEntries (c : Causes) (ecc alc : Byte) (b : ClassBytes) : List LogEntry :=
  (if c.busError then [.rd 12 ecc] else []) ++ (if c.arbLost then [.rd 11 alc] else []) ++
    (if c.errorState then b.reads.map readEntry else [])

/-- The offsets a dispatch reads. -/
def dispatchOffsets (c : Causes) : List Offset :=
  (if c.busError then [12] else []) ++ (if c.arbLost then [11] else []) ++
    (if c.errorState then [2, 13, 14, 15] else []) ++ (if c.transmit then [2] else [])

/-! ### The offsets and the entries of a dispatch, by number -/

section
variable (c : Causes)

/-- What the captures take of a list with one element per read. -/
theorem length_captures {α : Type} (x y : α) :
    ((if c.busError then [x] else []) ++ (if c.arbLost then [y] else [])).length = c.errorStateAt := by
  rw [List.length_append, apply_ite List.length, apply_ite List.length]
  rfl

/-- What comes before the TI read, in a list with one element per read. -/
theorem length_beforeTransmit {α : Type} (x y : α) {zs : List α} (h : zs.length = 4) :
    ((if c.busError then [x] else []) ++ (if c.arbLost then [y] else []) ++
      (if c.errorState then zs else [])).length = c.transmitAt := by
  rw [List.length_append, length_captures, apply_ite List.length, h]
  rfl

theorem dispatchOffsets_length : (dispatchOffsets c).length = c.transmitAt + if c.transmit then 1 else 0 := by
  rw [dispatchOffsets, List.length_append, length_beforeTransmit c _ _ rfl, apply_ite List.length]
  rfl

theorem dispatchEntries_length (ecc alc : Byte) (b : ClassBytes) :
    (dispatchEntries c ecc alc b).length = c.transmitAt := length_beforeTransmit c _ _ rfl

theorem take_dispatchEntries_arbLostAt (ecc alc : Byte) (b : ClassBytes) :
    (dispatchEntries c ecc alc b).take c.arbLostAt = if c.busError then [.rd 12 ecc] else [] := by
  unfold dispatchEntries Causes.arbLostAt
  split <;> simp

end

section
variable {c : Causes}

/-- Read number `n` of a dispatch is the ECC read, the ALC read, one of the classification, or the TI read of SR. -/
theorem dispatchOffsets_cases {n : Nat} (h : n < (dispatchOffsets c).length) :
    (c.busError = true ∧ n = 0) ∨ (c.arbLost = true ∧ n = c.arbLostAt) ∨
      (c.errorState = true ∧ ∃ j < 4, n = c.errorStateAt + j) ∨ (c.transmit = true ∧ n = c.transmitAt) := by
  rw [dispatchOffsets_length] at h
  by_cases hecc : n < c.arbLostAt
  · unfold Causes.arbLostAt at hecc
    split at hecc
    · exact .inl ⟨‹_›, by omega⟩
    · omega
  by_cases halc : n < c.errorStateAt
  · unfold Causes.errorStateAt at halc
    split at halc
    · exact .inr (.inl ⟨‹_›, by omega⟩)
    · omega
  by_cases hclass : n < c.transmitAt
  · unfold Causes.transmitAt at hclass
    split at hclass
    · exact .inr (.inr (.inl ⟨‹_›, n - c.errorStateAt, by omega, by omega⟩))
    · omega
  split at h
  · exact .inr (.inr (.inr ⟨‹_›, by omega⟩))
  · omega

theorem dispatchOffsets_busError (h : c.busError = true) : (dispatchOffsets c).getD 0 0 = 12 := by
  simp [dispatchOffsets, h]

theorem dispatchOffsets_arbLost (h : c.arbLost = true) : (dispatchOffsets c).getD c.arbLostAt 0 = 11 := by
  cases hbus : c.busError <;> simp [dispatchOffsets, Causes.arbLostAt, h, hbus]

theorem dispatchOffsets_errorState (h : c.errorState = true) {j : Nat} (hj : j < 4) :
    (dispatchOffsets c).getD (c.errorStateAt + j) 0 = ([2, 13, 14, 15] : List Offset)[j] := by
  rw [dispatchOffsets, if_pos h, List.append_assoc, ← length_captures c (12 : Offset) 11,
    List.getD_append_right _ _ _ _ (Nat.le_add_right _ j), Nat.add_sub_cancel_left, List.getD_append _ _ _ _ hj,
    List.getD_eq_getElem _ _ hj]

theorem dispatchOffsets_transmit (h : c.transmit = true) : (dispatchOffsets c).getD c.transmitAt 0 = 2 := by
  rw [dispatchOffsets, if_pos h, ← length_beforeTransmit c (12 : Offset) 11 (zs := [2, 13, 14, 15]) rfl,
    List.getD_append_right _ _ _ _ le_rfl, Nat.sub_self]
  rfl

theorem take_dispatchEntries_errorState (h : c.errorState = true) (ecc alc : Byte) (b : ClassBytes) (j : Nat) :
    (dispatchEntries c ecc alc b).take (c.errorStateAt + j) =
      (if c.busError then [.rd 12 ecc] else []) ++ (if c.arbLost then [.rd 11 alc] else []) ++
        (b.reads.take j).map readEntry := by
  rw [dispatchEntries, if_pos h, ← length_captures c (LogEntry.rd 12 ecc) (.rd 11 alc), List.take_length_add_append,
    List.map_take]

end

/-! ### The class and what goes with it (43_status_decoder.md R242) -/

/-- The class, its two flags, `bus_on` and `mode.op`. -/
def State.health (s : State) : BusClass × Bool × Bool × Bool × ModeOp :=
  (s.busClass, s.status.errWarning, s.status.errPassive, s.status.busOn, s.mode.op)

def State.withHealth (s : State) (h : BusClass × Bool × Bool × Bool × ModeOp) : State :=
  { s with
    busClass := h.1, mode := { s.mode with op := h.2.2.2.2 },
    status := { s.status with errWarning := h.2.1, errPassive := h.2.2.1, busOn := h.2.2.2.1 } }

/-- What a classification makes of them. -/
def State.healthAfter (s : State) (cls : BusClass) : BusClass × Bool × Bool × Bool × ModeOp :=
  if cls = .busOff then (.busOff, false, false, false, .reset)
  else if s.busClass = .busOff then s.health
  else (cls, decide (cls = .warning), decide (cls = .passive), s.status.busOn, s.mode.op)

/-- `ApplyClass` writes these five and nothing else. -/
theorem State.applyClass_eq (s : State) (cls : BusClass) : s.applyClass cls = s.withHealth (s.healthAfter cls) := by
  unfold State.applyClass State.healthAfter
  split
  · rfl
  split
  · rfl
  · cases cls <;> rfl

/-! ### The branches, each by itself (43_status_decoder.md R246 to R250) -/

/-- After DOI: the flag. -/
def State.overrunSeen (s : State) (c : Causes) : State :=
  s.withStatus { s.status with dataOverrun := s.status.dataOverrun || c.overrun }

theorem onOverrun_eq (ir : Byte) (s : State) :
    onOverrun ir s = s.overrunSeen (causesOf ir) := by
  change (if (causesOf ir).overrun then _ else _) = _
  cases h : (causesOf ir).overrun <;> simp [State.overrunSeen, State.withStatus, h]

theorem onReceive_eq (ir : Byte) (s : State) :
    onReceive ir s = s.setMsgWaiting (s.status.msgWaiting || (causesOf ir).receive) := by
  change (if (causesOf ir).receive then _ else _) = _
  cases (causesOf ir).receive <;> simp [State.withStatus]

/-- After BEI: the flag, and the capture, which the read arms again at the controller. -/
def State.busErrorSeen (s : State) (c : Causes) (ecc : Byte) : State :=
  { s with
    status := { s.status with busError := s.status.busError || c.busError },
    log := s.log ++ (if c.busError then [.rd 12 ecc] else []), accesses := s.accesses + c.arbLostAt,
    eccCap := if c.busError then some ecc else s.eccCap,
    controller := { s.controller with eccArmed := s.controller.eccArmed || c.busError } }

/-- After ALI: the flag, and the capture, which the read arms again at the controller. -/
def State.arbLostSeen (s : State) (c : Causes) (alc : Byte) : State :=
  { s with
    status := { s.status with arbLost := s.status.arbLost || c.arbLost },
    log := s.log ++ (if c.arbLost then [.rd 11 alc] else []), accesses := s.accesses + if c.arbLost then 1 else 0,
    alcCap := if c.arbLost then some alc else s.alcCap,
    controller := { s.controller with alcArmed := s.controller.alcArmed || c.arbLost } }

/-- After DOI, BEI and ALI. -/
abbrev State.capturesSeen (s : State) (c : Causes) (ecc alc : Byte) : State :=
  ((s.overrunSeen c).busErrorSeen c ecc).arbLostSeen c alc

theorem State.capturesSeen_accesses (s : State) (c : Causes) (ecc alc : Byte) :
    (s.capturesSeen c ecc alc).accesses = s.accesses + c.errorStateAt := Nat.add_assoc _ _ _

/-- After EPI or EI: the four reads and the class. -/
def State.errorStateSeen (s : State) (c : Causes) (b : ClassBytes) : State :=
  State.withHealth
    { s with
      log := s.log ++ (if c.errorState then b.reads.map readEntry else []),
      accesses := s.accesses + if c.errorState then 4 else 0 }
    (if c.errorState then s.healthAfter (b.cls s.params) else s.health)

theorem onBusError_of_responds {ir : Byte} {s : State} (h : s.respondsFor (causesOf ir).arbLostAt) :
    ∃ ecc, onBusError ir s = .going () (s.busErrorSeen (causesOf ir) ecc) := by
  change ∃ ecc, (if (causesOf ir).busError then _ else _) = _
  cases hbit : (causesOf ir).busError with
  | false => exact ⟨0, by simp [State.busErrorSeen, Causes.arbLostAt, hbit]⟩
  | true =>
    obtain ⟨ecc, hvalue, -⟩ := readValue_of_responds (off := 12) (s := s.setBusError true)
      (h 0 (by simp [Causes.arbLostAt, hbit]))
    refine ⟨ecc, ?_⟩
    rw [if_pos rfl, regRead_of_value hvalue, Access.andThen_going]
    simp [State.busErrorSeen, Causes.arbLostAt, hbit, State.afterRead, State.record, State.countAccess,
      State.withController, State.withStatus, State.withEccCap, Controller.afterRead]

theorem onArbLost_of_responds {ir : Byte} {s : State} (h : s.respondsFor (if (causesOf ir).arbLost then 1 else 0)) :
    ∃ alc, onArbLost ir s = .going () (s.arbLostSeen (causesOf ir) alc) := by
  change ∃ alc, (if (causesOf ir).arbLost then _ else _) = _
  cases hbit : (causesOf ir).arbLost with
  | false => exact ⟨0, by simp [State.arbLostSeen, hbit]⟩
  | true =>
    obtain ⟨alc, hvalue, -⟩ := readValue_of_responds (off := 11) (s := s.setArbLost true) (h 0 (by simp [hbit]))
    refine ⟨alc, ?_⟩
    rw [if_pos rfl, regRead_of_value hvalue, Access.andThen_going]
    simp [State.arbLostSeen, hbit, State.afterRead, State.record, State.countAccess,
      State.withController, State.withStatus, State.withAlcCap, Controller.afterRead]

/-- A classification is one run of four reads. -/
theorem onErrorState_eq {ir : Byte} (h : (causesOf ir).errorState = true) (s : State) :
    onErrorState ir s = (regReadAll [2, 13, 14, 15] s).andThen fun bytes t =>
      .going () (t.applyClass
        (classify t.params (bytes.getD 0 0) (bytes.getD 1 0) (bytes.getD 2 0) (bytes.getD 3 0))) := by
  refine (if_pos h).trans ?_
  simp only [regReadAll, Access.andThen_assoc, Access.andThen_going]
  rfl

theorem readsQuietly_classReads (b : ClassBytes) : ∀ r ∈ b.reads, readsQuietly r.1 := by
  simp [ClassBytes.reads, readsQuietly]

/-- As far as they are answered, the four reads find some bytes. -/
theorem exists_classReads {s : State} {n : Nat} (h : s.respondsFor n) : ∃ b : ClassBytes, s.Finds n b.reads := by
  refine ⟨⟨(s.valueAt 0 2).getD 0, (s.valueAt 1 13).getD 0, (s.valueAt 2 14).getD 0, (s.valueAt 3 15).getD 0⟩,
    fun k hk r hr => ?_⟩
  obtain ⟨v, hv, -⟩ := State.valueAt_of_responds (h k hk) r.1
  match k, hr with
  | 0, hr | 1, hr | 2, hr | 3, hr =>
    obtain rfl := Option.some.inj hr
    exact hv.trans (congrArg some (by rw [hv, Option.getD_some]))

theorem onErrorState_of_responds {ir : Byte} {s : State}
    (h : s.respondsFor (if (causesOf ir).errorState then 4 else 0)) :
    ∃ b, onErrorState ir s = .going () (s.errorStateSeen (causesOf ir) b) := by
  cases hbit : (causesOf ir).errorState with
  | false =>
    refine ⟨⟨0, 0, 0, 0⟩, (if_neg (Bool.eq_false_iff.mp hbit)).trans ?_⟩
    simp [State.errorStateSeen, State.withHealth, State.health, hbit]
  | true =>
    rw [hbit] at h
    obtain ⟨b, hfinds⟩ := exists_classReads h
    have hreads : regReadAll [2, 13, 14, 15] s = .going (b.reads.map Prod.snd) (s.afterReads b.reads) :=
      regReadAll_of_finds (readsQuietly_classReads b) hfinds
    refine ⟨b, ?_⟩
    rw [onErrorState_eq hbit, hreads, Access.andThen_going, State.applyClass_eq, State.errorStateSeen, hbit]
    rfl

theorem onErrorState_of_lost {ir : Byte} {s : State} {j : Nat} (hbit : (causesOf ir).errorState = true)
    (hj : j < 4) (h : s.respondsFor j) (hlost : s.answerAt (s.accesses + j) = .noresp) :
    ∃ b : ClassBytes, onErrorState ir s =
      .lost ((s.afterReads (b.reads.take j)).noResponse (([2, 13, 14, 15] : List Offset)[j])) := by
  obtain ⟨b, hfinds⟩ := exists_classReads h
  refine ⟨b, ?_⟩
  have hreads : regReadAll [2, 13, 14, 15] s = .lost ((s.afterReads (b.reads.take j)).noResponse b.reads[j].1) :=
    regReadAll_of_lost hj (readsQuietly_classReads b) hfinds hlost
  rw [onErrorState_eq hbit, hreads, Access.andThen_lost]
  have hget : (b.reads.map Prod.fst)[j]'hj = b.reads[j].1 := List.getElem_map _
  rw [← hget]
  rfl

theorem onBusError_of_lost {ir : Byte} {s : State} (hbit : (causesOf ir).busError = true)
    (hlost : s.answerAt s.accesses = .noresp) :
    onBusError ir s = .lost ((s.setBusError true).noResponse 12) := by
  refine (if_pos hbit).trans ?_
  rw [regRead_of_lost (s := s.setBusError true) hlost, Access.andThen_lost]

theorem onArbLost_of_lost {ir : Byte} {s : State} (hbit : (causesOf ir).arbLost = true)
    (hlost : s.answerAt s.accesses = .noresp) :
    onArbLost ir s = .lost ((s.setArbLost true).noResponse 11) := by
  refine (if_pos hbit).trans ?_
  rw [regRead_of_lost (s := s.setArbLost true) hlost, Access.andThen_lost]

theorem onTransmit_of_lost {ir : Byte} {s : State} (hbit : (causesOf ir).transmit = true)
    (hlost : s.answerAt s.accesses = .noresp) : onTransmit ir s = .lost (s.noResponse 2) := by
  refine (if_pos hbit).trans ?_
  rw [regRead_of_lost hlost, Access.andThen_lost]

/-! ### The dispatch, up to any of its reads (43_status_decoder.md R253; 00_scope.md R16) -/

/-- The state of a dispatch before its read number `n`, the flag set just before that read included. -/
def State.dispatched (s : State) (c : Causes) (ecc alc : Byte) (b : ClassBytes) (n : Nat) : State :=
  State.withHealth
    { s with
      status := { s.status with
        dataOverrun := s.status.dataOverrun || c.overrun, busError := s.status.busError || c.busError,
        arbLost := s.status.arbLost || (c.arbLost && decide (c.arbLostAt ≤ n)),
        msgWaiting := s.status.msgWaiting || (c.receive && decide (c.transmitAt ≤ n)) },
      log := s.log ++ (dispatchEntries c ecc alc b).take n, accesses := s.accesses + n,
      eccCap := if c.busError && decide (c.arbLostAt ≤ n) then some ecc else s.eccCap,
      alcCap := if c.arbLost && decide (c.errorStateAt ≤ n) then some alc else s.alcCap,
      controller := { s.controller with
        eccArmed := s.controller.eccArmed || (c.busError && decide (c.arbLostAt ≤ n)),
        alcArmed := s.controller.alcArmed || (c.arbLost && decide (c.errorStateAt ≤ n)) } }
    (if c.errorState && decide (c.transmitAt ≤ n) then s.healthAfter (b.cls s.params) else s.health)

section
variable {c : Causes} (s : State) (ecc alc : Byte) (b : ClassBytes)

theorem State.dispatched_busError (h : c.busError = true) :
    (s.overrunSeen c).setBusError true = s.dispatched c ecc alc b 0 := by
  simp [State.dispatched, State.withHealth, State.health, State.withStatus, State.overrunSeen, Causes.transmitAt,
    Causes.errorStateAt, Causes.arbLostAt, h]

theorem State.dispatched_arbLost (h : c.arbLost = true) :
    ((s.overrunSeen c).busErrorSeen c ecc).setArbLost true = s.dispatched c ecc alc b c.arbLostAt := by
  have hclass := Causes.errorStateAt_of_arbLost h
  have hle := c.errorStateAt_le
  have htransmit : ¬ c.transmitAt ≤ c.arbLostAt := by omega
  simp [State.dispatched, State.withHealth, State.health, State.withStatus, State.overrunSeen, State.busErrorSeen,
    hclass, htransmit, h, take_dispatchEntries_arbLostAt]

theorem State.dispatched_errorState (h : c.errorState = true) {j : Nat} (hj : j < 4) :
    (s.capturesSeen c ecc alc).afterReads (b.reads.take j) = s.dispatched c ecc alc b (c.errorStateAt + j) := by
  have hlt : ¬ 4 ≤ j := by omega
  have harb : c.arbLostAt ≤ c.errorStateAt + j := c.arbLostAt_le.trans (Nat.le_add_right _ _)
  have hreads : (b.reads.take j).length = j := List.length_take_of_le hj.le
  have hcount : s.accesses + c.arbLostAt + (if c.arbLost then 1 else 0) + j = s.accesses + (c.errorStateAt + j) := by
    rw [Causes.errorStateAt]
    omega
  simp only [State.dispatched, take_dispatchEntries_errorState h, Causes.transmitAt_of_errorState h,
    State.afterReads, hreads]
  simp [State.withHealth, State.health, State.withStatus, State.overrunSeen, State.busErrorSeen, State.arbLostSeen, h,
    hlt, harb, hcount]

theorem State.dispatched_transmit :
    let t := (s.capturesSeen c ecc alc).errorStateSeen c b
    t.setMsgWaiting (t.status.msgWaiting || c.receive) = s.dispatched c ecc alc b c.transmitAt := by
  have harb := c.arbLostAt_le.trans c.errorStateAt_le
  have hall := List.take_of_length_le (dispatchEntries_length c ecc alc b).le
  have hcount : s.accesses + c.arbLostAt + (if c.arbLost then 1 else 0) + (if c.errorState then 4 else 0) =
      s.accesses + c.transmitAt := by
    rw [Causes.transmitAt, Causes.errorStateAt]
    omega
  simp only [State.dispatched, hall]
  simp [State.withHealth, State.health, State.healthAfter, State.withStatus, State.overrunSeen, State.busErrorSeen,
    State.arbLostSeen, State.errorStateSeen, dispatchEntries, harb, c.errorStateAt_le, hcount]

end

section
variable {ir : Byte} {s : State}

/-- With the ECC read answered, if there is one, ALI comes next. -/
theorem dispatchSnapshot_of_busError (h : s.respondsFor (causesOf ir).arbLostAt) : ∃ ecc, dispatchSnapshot ir s =
    (onArbLost ir ((s.overrunSeen (causesOf ir)).busErrorSeen (causesOf ir) ecc)).andThen fun _ t =>
      (onErrorState ir t).andThen fun _ u => onTransmit ir (onReceive ir u) := by
  obtain ⟨ecc, hecc⟩ := onBusError_of_responds (s := s.overrunSeen (causesOf ir)) h
  refine ⟨ecc, ?_⟩
  rw [dispatchSnapshot, onOverrun_eq, hecc, Access.andThen_going]

/-- With the ALC read answered too, the classification comes next. -/
theorem dispatchSnapshot_of_arbLost (h : s.respondsFor (causesOf ir).errorStateAt) :
    ∃ ecc alc, dispatchSnapshot ir s = (onErrorState ir (s.capturesSeen (causesOf ir) ecc alc)).andThen fun _ u =>
      onTransmit ir (onReceive ir u) := by
  obtain ⟨ecc, hecc⟩ := dispatchSnapshot_of_busError fun k hk => h k (hk.trans_le (Causes.arbLostAt_le _))
  obtain ⟨alc, halc⟩ := onArbLost_of_responds (ir := ir)
    (s := (s.overrunSeen (causesOf ir)).busErrorSeen (causesOf ir) ecc) (State.respondsFor_shift h rfl rfl)
  refine ⟨ecc, alc, ?_⟩
  rw [hecc, halc, Access.andThen_going]

/-- With the classification over, if there is one, and RI recorded, TI comes next. -/
theorem dispatchSnapshot_of_errorState (h : s.respondsFor (causesOf ir).transmitAt) : ∃ ecc alc b,
    dispatchSnapshot ir s = onTransmit ir (s.dispatched (causesOf ir) ecc alc b (causesOf ir).transmitAt) := by
  obtain ⟨ecc, alc, halc⟩ := dispatchSnapshot_of_arbLost fun k hk => h k (hk.trans_le (Causes.errorStateAt_le _))
  obtain ⟨b, hb⟩ := onErrorState_of_responds (ir := ir)
    (s := s.capturesSeen (causesOf ir) ecc alc) (State.respondsFor_shift h rfl (s.capturesSeen_accesses _ _ _))
  refine ⟨ecc, alc, b, ?_⟩
  rw [halc, hb, Access.andThen_going, onReceive_eq, State.dispatched_transmit]

/-- A dispatch ends at any read without response, after what the reads before it did. -/
theorem dispatchSnapshot_of_lost {n : Nat} (hn : n < (dispatchOffsets (causesOf ir)).length) (h : s.respondsFor n)
    (hlost : s.answerAt (s.accesses + n) = .noresp) : ∃ ecc alc b, dispatchSnapshot ir s =
      .lost ((s.dispatched (causesOf ir) ecc alc b n).noResponse ((dispatchOffsets (causesOf ir)).getD n 0)) := by
  obtain ⟨hbit, rfl⟩ | ⟨hbit, rfl⟩ | ⟨hbit, j, hj, rfl⟩ | ⟨hbit, rfl⟩ := dispatchOffsets_cases hn
  · refine ⟨0, 0, ⟨0, 0, 0, 0⟩, ?_⟩
    rw [dispatchOffsets_busError hbit, ← State.dispatched_busError s _ _ _ hbit, dispatchSnapshot, onOverrun_eq,
      onBusError_of_lost (s := s.overrunSeen (causesOf ir)) hbit hlost, Access.andThen_lost]
  · obtain ⟨ecc, hecc⟩ := dispatchSnapshot_of_busError h
    refine ⟨ecc, 0, ⟨0, 0, 0, 0⟩, ?_⟩
    rw [dispatchOffsets_arbLost hbit, ← State.dispatched_arbLost s _ _ _ hbit, hecc, onArbLost_of_lost hbit hlost,
      Access.andThen_lost]
  · obtain ⟨ecc, alc, halc⟩ := dispatchSnapshot_of_arbLost fun k hk => h k (Nat.lt_add_right j hk)
    obtain ⟨b, hb⟩ := onErrorState_of_lost (ir := ir)
      (s := s.capturesSeen (causesOf ir) ecc alc) hbit hj
      (State.respondsFor_shift h rfl (s.capturesSeen_accesses _ _ _))
      (State.answerAt_shift hlost rfl (s.capturesSeen_accesses _ _ _))
    refine ⟨ecc, alc, b, ?_⟩
    rw [dispatchOffsets_errorState hbit hj, ← State.dispatched_errorState s _ _ _ hbit hj, halc, hb,
      Access.andThen_lost]
  · obtain ⟨ecc, alc, b, hb⟩ := dispatchSnapshot_of_errorState h
    refine ⟨ecc, alc, b, ?_⟩
    rw [dispatchOffsets_transmit hbit, hb, onTransmit_of_lost hbit hlost]

end

/-! ### The two outcomes (43_status_decoder.md R245; 00_scope.md R16) -/

/-- After TI: the read of SR and the busy flag. -/
def State.transmitSeen (s : State) (c : Causes) (sr : Byte) : State :=
  { s with
    status := { s.status with txBusy := s.status.txBusy && !c.transmit },
    log := s.log ++ (if c.transmit then [.rd 2 sr] else []), accesses := s.accesses + if c.transmit then 1 else 0 }

theorem onTransmit_of_responds {ir : Byte} {s : State} (h : s.respondsFor (if (causesOf ir).transmit then 1 else 0)) :
    ∃ sr, onTransmit ir s =
      .going (if (causesOf ir).transmit then some (sr.getLsbD 3) else none) (s.transmitSeen (causesOf ir) sr) := by
  change ∃ sr, (if (causesOf ir).transmit then _ else _) = _
  cases hbit : (causesOf ir).transmit with
  | false => exact ⟨0, by simp [State.transmitSeen, hbit]⟩
  | true =>
    rw [hbit] at h
    obtain ⟨sr, hvalue, -⟩ := readValue_of_responds (off := 2) (h 0 one_pos)
    refine ⟨sr, ?_⟩
    rw [if_pos rfl, regRead_of_value hvalue, Access.andThen_going, State.afterRead_of_quiet _ readsQuietly_sr]
    simp [State.transmitSeen, State.withStatus, hbit]

section
variable {s : State} {ir : Byte} (hvalue : s.readValue 3 = some ir)
include hvalue

/-- HANDLE_INTERRUPT with every read answered. -/
theorem interruptAccesses_of_responds
    (h : s.respondsFor (1 + ((causesOf ir).transmitAt + if (causesOf ir).transmit then 1 else 0))) :
    ∃ ecc alc b sr, interruptAccesses s.select =
      .going (ir, if (causesOf ir).transmit then some (sr.getLsbD 3) else none)
        (((s.irRead ir).dispatched (causesOf ir) ecc alc b (causesOf ir).transmitAt).transmitSeen (causesOf ir)
          sr) := by
  have hrest : (s.irRead ir).respondsFor _ := State.respondsFor_shift h rfl rfl
  obtain ⟨ecc, alc, b, hb⟩ := dispatchSnapshot_of_errorState fun k hk => hrest k (Nat.lt_add_right _ hk)
  obtain ⟨sr, hsr⟩ := onTransmit_of_responds (ir := ir)
    (s := (s.irRead ir).dispatched (causesOf ir) ecc alc b (causesOf ir).transmitAt)
    (State.respondsFor_shift hrest rfl rfl)
  refine ⟨ecc, alc, b, sr, ?_⟩
  rw [interruptAccesses_of_value hvalue, hb, hsr, Access.andThen_going]

/-- HANDLE_INTERRUPT with a read after the IR read lost. -/
theorem interruptAccesses_of_lost_dispatch {n : Nat} (hn : n < (dispatchOffsets (causesOf ir)).length)
    (h : s.respondsFor (1 + n)) (hlost : s.answerAt (s.accesses + (1 + n)) = .noresp) :
    ∃ ecc alc b, interruptAccesses s.select =
      .lost (((s.irRead ir).dispatched (causesOf ir) ecc alc b n).noResponse
        ((dispatchOffsets (causesOf ir)).getD n 0)) := by
  obtain ⟨ecc, alc, b, hb⟩ := dispatchSnapshot_of_lost (s := s.irRead ir) hn (State.respondsFor_shift h rfl rfl)
    (State.answerAt_shift hlost rfl rfl)
  refine ⟨ecc, alc, b, ?_⟩
  rw [interruptAccesses_of_value hvalue, hb, Access.andThen_lost]

end

/-- HANDLE_INTERRUPT after its last access, answered. -/
theorem exec_handleInterrupt_of_going {s u : State} {ir : Byte} {done : Option Bool} (hfault : s.devFault = false)
    (h : interruptAccesses s.select = .going (ir, done) u) : ∃ t, exec .handleInterrupt s = .next t ∧ t = { u with
      log := u.log ++ ([.desel] ++ done.toList.map .txDone ++ (if ir.getLsbD 4 then [.wakeUp] else []) ++
        statusChangeBetween s t),
      response := some { result := .ok, outs := .none } } := by
  refine ⟨_, exec_handleInterrupt_of_admitted hfault, ?_⟩
  rw [h]
  exact finishInterrupt_eq s ir done u

/-- HANDLE_INTERRUPT after its last access, lost. -/
theorem exec_handleInterrupt_of_lost {s u : State} (hfault : s.devFault = false)
    (h : interruptAccesses s.select = .lost u) : ∃ t, exec .handleInterrupt s = .next t ∧ t = { u with
      devFault := true, log := u.log ++ .desel :: statusChangeBetween s t,
      response := some { result := .deviceNotResponding, outs := .none } } := by
  refine ⟨_, exec_handleInterrupt_of_admitted hfault, ?_⟩
  rw [h]
  exact deviceNotResponding_eq_statusChange s u

/-- What a dispatch did to the class and what goes with it. -/
theorem class_of_health {s t : State} {b : ClassBytes} (gate : Bool)
    (h : t.health = if gate then s.healthAfter (b.cls s.params) else s.health) :
    if gate = true then ClassApplied b.sr b.ewlr b.rxerr b.txerr s t else ClassKept s t := by
  cases gate <;> exact h

/-- Settles O28: the dispatch with every read answered, clause by clause of the state it leaves. -/
theorem handleInterruptCompletes : Obligations.HandleInterruptCompletes := by
  unfold Obligations.HandleInterruptCompletes
  intro s ir hfault hvalue reads hresponds
  have hcount : reads = 1 + ((causesOf ir).transmitAt + if (causesOf ir).transmit then 1 else 0) := by
    change 1 + (causesOf ir).arbLostAt + (if (causesOf ir).arbLost then 1 else 0) +
      (if (causesOf ir).errorState then 4 else 0) + (if (causesOf ir).transmit then 1 else 0) = _
    rw [Causes.transmitAt, Causes.errorStateAt]
    omega
  obtain ⟨ecc, alc, b, sr, haccesses⟩ := interruptAccesses_of_responds hvalue (hcount ▸ hresponds)
  obtain ⟨t, hexec, ht⟩ := exec_handleInterrupt_of_going hfault haccesses
  have harb : decide ((causesOf ir).arbLostAt ≤ (causesOf ir).transmitAt) = true :=
    decide_eq_true ((Causes.arbLostAt_le _).trans (Causes.errorStateAt_le _))
  have hclass : decide ((causesOf ir).errorStateAt ≤ (causesOf ir).transmitAt) = true :=
    decide_eq_true (Causes.errorStateAt_le _)
  have htransmit : decide ((causesOf ir).transmitAt ≤ (causesOf ir).transmitAt) = true := decide_eq_true le_rfl
  have hall := List.take_of_length_le (dispatchEntries_length (causesOf ir) ecc alc b).le
  simp only [State.dispatched, harb, hclass, htransmit, hall, Bool.and_true] at ht
  have hdone : (if (causesOf ir).transmit then some (sr.getLsbD 3) else none).toList.map LogEntry.txDone =
      if (causesOf ir).transmit then [.txDone (sr.getLsbD 3)] else [] := by
    split <;> rfl
  rw [hdone] at ht
  refine ⟨t, ecc, alc, b.sr, b.ewlr, b.rxerr, b.txerr, sr, hexec, (congrArg State.accesses ht).trans ?_,
    (congrArg State.log ht).trans ?_, fun v hanswer => ?_, congrArg (·.status.initialized) ht,
    congrArg (·.status.dataOverrun) ht, congrArg (·.status.busError) ht, congrArg (·.status.arbLost) ht,
    congrArg (·.status.msgWaiting) ht, congrArg (·.status.txBusy) ht, congrArg State.eccCap ht,
    congrArg State.alcCap ht, class_of_health _ (congrArg State.health ht), congrArg (·.mode.lom) ht,
    congrArg (·.mode.stm) ht, congrArg (·.mode.sm) ht, congrArg State.response ht,
    (congrArg State.devFault ht).trans hfault, congrArg (·.inputs) ht, congrArg (·.answers) ht,
    congrArg (·.params) ht, congrArg (·.controller.fifoCount) ht, congrArg (·.controller.fifoEnd) ht,
    congrArg (·.controller.inFlight) ht, congrArg (·.controller.latch) ht,
    congrArg (·.controller.resetRequested) ht, congrArg (·.controller.eccArmed) ht,
    congrArg (·.controller.alcArmed) ht, fun a ha => ?_, fun hwf => ?_⟩
  · rw [hcount]
    simp only [State.transmitSeen, State.withHealth, State.irRead]
    omega
  · simp only [State.transmitSeen, State.withHealth, State.irRead, dispatchEntries, List.append_assoc]
    rfl
  · exact Option.some.inj (hvalue.symm.trans (by simp only [State.readValue, hanswer]))
  · rw [ht]
    exact s.controller.afterRead_ir_of_ne ir ha
  · rw [ht]
    obtain ⟨hcell, -⟩ := Controller.afterRead_ir hwf ir 0
    exact hcell

/-- Settles O31: the IR read lost, and the dispatch up to any later read lost, clause by clause. -/
theorem lostReadKeepsWhatWasWritten : Obligations.LostReadKeepsWhatWasWritten := by
  unfold Obligations.LostReadKeepsWhatWasWritten
  refine ⟨fun s hfault hlost => ?_, fun s ir n hfault hvalue => ?_⟩
  · rw [exec_handleInterrupt_of_admitted hfault, interruptAccesses_of_lost hlost, Access.conclude_lost,
      deviceNotResponding_of_only_access]
  · intro classifies alcAt classAt transmitAt offs hn hresponds hlost
    obtain ⟨ecc, alc, b, haccesses⟩ := interruptAccesses_of_lost_dispatch hvalue hn (Nat.add_comm n 1 ▸ hresponds)
      (Nat.add_comm n 1 ▸ hlost)
    obtain ⟨t, hexec, ht⟩ := exec_handleInterrupt_of_lost hfault haccesses
    refine ⟨t, ecc, alc, b.sr, b.ewlr, b.rxerr, b.txerr, hexec, (congrArg State.log ht).trans ?_,
      congrArg (·.status.initialized) ht, congrArg (·.status.dataOverrun) ht, congrArg (·.status.busError) ht,
      congrArg (·.status.arbLost) ht, congrArg (·.status.msgWaiting) ht, congrArg (·.status.txBusy) ht,
      congrArg State.eccCap ht, congrArg State.alcCap ht, class_of_health _ (congrArg State.health ht),
      congrArg (·.mode.lom) ht, congrArg (·.mode.stm) ht, congrArg (·.mode.sm) ht, congrArg State.response ht,
      congrArg State.devFault ht, (congrArg State.accesses ht).trans ?_, congrArg (·.inputs) ht,
      congrArg (·.answers) ht, congrArg (·.params) ht, ?_, fun a ha => ?_, fun hwf => ?_⟩
    · simp only [State.noResponse, State.record, State.countAccess, State.dispatched, State.withHealth, State.irRead,
        dispatchEntries, List.append_assoc]
      rfl
    · simp only [State.noResponse, State.record, State.countAccess, State.dispatched, State.withHealth, State.irRead]
      omega
    · rw [ht]
      rfl
    · rw [ht]
      exact s.controller.afterRead_ir_of_ne ir ha
    · rw [ht]
      obtain ⟨hcell, -⟩ := Controller.afterRead_ir hwf ir 0
      exact hcell

end Sys2Proof.Machine
end

section
/-! Block control: the one status change of an operation (44_block_control.md R290), then SET_MODE, READ_STATUS and
RESET (R280, R284, R286). -/

namespace Sys2Proof.Machine

/-! ### The status change of an operation (44_block_control.md R290) -/

/-- From `s` to `t` the log was at most appended to, by entries that are no status change. -/
def LogsNoChange (s t : State) : Prop :=
  ∃ seg, t.log = s.log ++ seg ∧ seg.any LogEntry.isStatusChange = false

/-- What R290 asks of an operation from `s` to `t`: its status change, where there is one, is the last entry. -/
def ReportsChange (s t : State) : Prop :=
  ∃ seg, t.log = s.log ++ seg ++ statusChangeBetween s t ∧ seg.any LogEntry.isStatusChange = false

theorem LogEntry.isStatusChange_of_isAccess {e : LogEntry} (h : e.isAccess = true) : e.isStatusChange = false := by
  cases e with
  | rd | wr | noResp => rfl
  | sel | desel | pulse | statusChange | frameReceived | txDone | wakeUp => cases h

theorem logsNoChange_of_log_eq {s t : State} (h : t.log = s.log) : LogsNoChange s t := ⟨[], by simp [h], rfl⟩

section
variable {s t u : State}

theorem LogsNoChange.trans (h : LogsNoChange s t) (g : LogsNoChange t u) : LogsNoChange s u := by
  obtain ⟨seg, hlog, hnone⟩ := h
  obtain ⟨seg', hlog', hnone'⟩ := g
  exact ⟨seg ++ seg', by rw [hlog', hlog, List.append_assoc], by rw [List.any_append, hnone, hnone']; rfl⟩

theorem LogsNoChange.record (h : LogsNoChange s t) {e : LogEntry} (he : e.isStatusChange = false) :
    LogsNoChange s (t.record e) :=
  h.trans ⟨[e], rfl, by simp [he]⟩

theorem LogsNoChange.deselect (h : LogsNoChange s t) : LogsNoChange s t.deselect := h.record rfl

theorem LogsNoChange.recordFrame (h : LogsNoChange s t) (f : Option Frame) : LogsNoChange s (t.recordFrame f) := by
  cases f with
  | none => exact h
  | some f => exact h.record rfl

theorem LogsNoChange.recordTxDone (h : LogsNoChange s t) (done : Option Bool) :
    LogsNoChange s (t.recordTxDone done) := by
  cases done with
  | none => exact h
  | some completed => exact h.record rfl

theorem LogsNoChange.recordWakeUp (h : LogsNoChange s t) (ir : Byte) : LogsNoChange s (t.recordWakeUp ir) := by
  unfold State.recordWakeUp
  split
  · exact h.record rfl
  · exact h

/-- An operation that changed neither a flag nor the class has nothing to report. -/
theorem LogsNoChange.reports_of_kept (h : LogsNoChange s t) (hs : t.status = s.status)
    (hc : t.busClass = s.busClass) : ReportsChange s t := by
  obtain ⟨seg, hlog, hnone⟩ := h
  have hsame : statusChangeBetween s t = [] := if_pos ⟨hs, hc⟩
  exact ⟨seg, by rw [hlog, hsame, List.append_nil], hnone⟩

/-- `emit status_change if changed` before the result reports the change of the whole operation. -/
theorem LogsNoChange.reports_of_emit (h : LogsNoChange s t) (r : Result) (o : Outputs) :
    ReportsChange s ((s.emitIfChanged t).respond r o) := by
  obtain ⟨seg, hlog, hnone⟩ := h
  refine ⟨seg, ?_, hnone⟩
  rw [← hlog]
  exact congrArg State.log (State.emitIfChanged_respond s t r o)

end

/-- A result alone, a refusal for example, changes and reports nothing. -/
theorem respond_reportsChange (s : State) (r : Result) (o : Outputs) : ReportsChange s (s.respond r o) :=
  (logsNoChange_of_log_eq rfl).reports_of_kept rfl rfl

/-- What the controller does on its own is no change of a flag or the class. -/
theorem withController_reportsChange (s : State) (c : Controller) : ReportsChange s (s.withController c) :=
  (logsNoChange_of_log_eq rfl).reports_of_kept rfl rfl

theorem Conversation.logsNoChange {s t : State} {accs : List LogEntry} (h : Conversation s accs t) :
    LogsNoChange s t :=
  ⟨accs, h.log, List.any_eq_false.mpr fun e he => by simp [LogEntry.isStatusChange_of_isAccess (h.isAccess e he)]⟩

/-- An operation that accesses the window: the exception reports the change (00_scope.md R16), so it is left to show
that the end of the operation does. -/
theorem Access.Converses.conclude_reportsChange {α : Type} {s : State} {n : Nat} {a : Access α}
    {finish : α → State → State} (h : a.Converses s.select n)
    (hfin : ∀ v u, a = .going v u → LogsNoChange s u → ReportsChange s (finish v u)) :
    ReportsChange s (a.conclude s finish) := by
  obtain ⟨accs, -, hconv⟩ := h
  have hselect : LogsNoChange s s.select := (logsNoChange_of_log_eq rfl).record rfl
  have hlast : LogsNoChange s a.last := hselect.trans hconv.logsNoChange
  cases a with
  | going v u => exact hfin v u rfl hlast
  | lost u =>
    have hfault : LogsNoChange s (u.withDevFault true) := hlast
    exact hfault.deselect.reports_of_emit _ _

/-- A read changes neither a flag nor the class. -/
theorem regRead_keeps_status {off : Offset} {s u : State} {v : Byte} (h : regRead off s = .going v u) :
    u.status = s.status ∧ u.busClass = s.busClass := by
  obtain ⟨w, -, e⟩ | ⟨-, e⟩ := regRead_cases off s
  · obtain ⟨-, rfl⟩ := Access.going.inj (e.symm.trans h)
    exact ⟨rfl, rfl⟩
  · cases e.symm.trans h

/-- A write changes neither a flag nor the class. -/
theorem regWrite_keeps_status {off : Offset} {v : Byte} {s u : State} {x : Unit} (h : regWrite off v s = .going x u) :
    u.status = s.status ∧ u.busClass = s.busClass := by
  obtain ⟨-, e⟩ | ⟨-, e⟩ := regWrite_cases off v s
  · obtain ⟨-, rfl⟩ := Access.going.inj (e.symm.trans h)
    exact ⟨rfl, rfl⟩
  · cases e.symm.trans h

theorem transmitWith_reportsChange (command : Byte) (f : Frame) (s : State) :
    ReportsChange s (s.transmitWith command f) := by
  unfold State.transmitWith
  split
  · exact respond_reportsChange s _ _
  · exact (transmitAccesses_converses command f s.select).conclude_reportsChange fun _ _ _ hu =>
      hu.deselect.reports_of_emit _ _

/-- Every instruction but RESET reports the change it makes, at its end or in the exception; those that change neither
a flag nor the class report nothing. -/
theorem exec_reportsChange {i : Instr} (hi : i ≠ .reset) (s : State) :
    ∃ t, exec i s = .next t ∧ ReportsChange s t := by
  cases i with
  | reset => exact absurd rfl hi
  | transmit f => exact ⟨_, rfl, transmitWith_reportsChange _ f s⟩
  | transmitSs f => exact ⟨_, rfl, transmitWith_reportsChange _ f s⟩
  | abort =>
    refine ⟨_, rfl, ?_⟩
    split
    · exact respond_reportsChange s _ _
    split
    · exact respond_reportsChange s _ _
    refine (regWrite_converses 1 0x02 s.select).conclude_reportsChange fun _ u hgoing hu => ?_
    obtain ⟨hstatus, hclass⟩ := regWrite_keeps_status hgoing
    exact hu.deselect.reports_of_kept hstatus hclass
  | txReadback k =>
    refine ⟨_, rfl, ?_⟩
    split
    · exact respond_reportsChange s _ _
    split
    · exact respond_reportsChange s _ _
    refine (regRead_converses _ s.select).conclude_reportsChange fun _ u hgoing hu => ?_
    obtain ⟨hstatus, hclass⟩ := regRead_keeps_status hgoing
    exact hu.deselect.reports_of_kept hstatus hclass
  | tryReceive =>
    refine ⟨_, rfl, ?_⟩
    split
    · exact respond_reportsChange s _ _
    split
    · exact respond_reportsChange s _ _
    exact (receiveAccesses_converses s.select).conclude_reportsChange fun f _ _ hu =>
      (hu.deselect.recordFrame f).reports_of_emit _ _
  | handleInterrupt =>
    refine ⟨_, rfl, ?_⟩
    split
    · exact respond_reportsChange s _ _
    exact (interruptAccesses_converses s.select).conclude_reportsChange fun r _ _ hu =>
      ((hu.deselect.recordTxDone r.2).recordWakeUp r.1).reports_of_emit _ _
  | setMode m =>
    refine ⟨_, rfl, ?_⟩
    split
    · exact respond_reportsChange s _ _
    split
    · exact respond_reportsChange s _ _
    exact (logsNoChange_of_log_eq (State.enterMode_log s _)).reports_of_emit _ _
  | ackEvents =>
    have hcleared : LogsNoChange s ((s.setArbLost false).setBusError false) := logsNoChange_of_log_eq rfl
    exact ⟨_, rfl, hcleared.reports_of_emit _ _⟩
  | encode f =>
    refine ⟨_, rfl, ?_⟩
    split <;> exact respond_reportsChange s _ _
  | readStatus | decode | decodeEcc | decodeAlc | classify | bufSff | bufEff =>
    exact ⟨_, rfl, respond_reportsChange s _ _⟩
  | cmrTr | cmrSrr | cmrTrAt | cmrSrrAt | cmrAt | cmrRrb | cmrCdo => exact ⟨_, rfl, withController_reportsChange s _⟩

/-- Settles O57: RESET logs the pulse alone, and every other instruction reports its change (`exec_reportsChange`). -/
theorem statusChangeExactlyWhenChanged : Obligations.StatusChangeExactlyWhenChanged := by
  unfold Obligations.StatusChangeExactlyWhenChanged
  intro i s
  by_cases hi : i = .reset
  · subst hi
    exact ⟨_, [.pulse], rfl, fun h => absurd rfl h, fun _ => rfl, rfl⟩
  · obtain ⟨t, hexec, seg, hlog, hnone⟩ := exec_reportsChange hi s
    exact ⟨t, seg, hexec, fun _ => hlog, fun h => absurd h hi, hnone⟩

/-! ### SET_MODE (44_block_control.md R280) -/

/-- Bits 7:5 of a mode byte are 000 exactly below 32 (30_encoding.md R91). -/
theorem modeInLegal_iff (m : Byte) : modeInLegal m = true ↔ m.toNat < 32 := by
  rw [modeInLegal, beq_iff_eq, ← BitVec.toNat_inj, BitVec.extractLsb'_toNat, BitVec.toNat_ofNat,
    Nat.shiftRight_eq_div_pow]
  omega

/-- Entering the mode of a byte, in terms of its bits. -/
theorem State.enterMode_modeOfByte (s : State) (m : Byte) : s.enterMode (modeOfByte m) = { s with
    mode := modeOfByte m,
    status := { s.status with txBusy := false, busOn := !m.getLsbD 0,
                              initialized := s.status.initialized || !m.getLsbD 0 },
    busClass := if m.getLsbD 0 = false ∧ s.busClass = .busOff then .active else s.busClass } := by
  cases hop : (modeOfByte m).op with
  | operating =>
    rw [State.enterMode_operating hop, modeOfByte_op_operating hop]
    simp
  | reset =>
    rw [State.enterMode_reset hop, modeOfByte_op_reset hop]
    simp

theorem exec_setMode_of_fault {s : State} (hfault : s.devFault = true) (m : Byte) :
    exec (.setMode m) s = .next { s with response := some { result := .deviceNotResponding, outs := .none } } :=
  congrArg Host.Outcome.next (if_pos hfault)

theorem exec_setMode_of_reserved {s : State} (hfault : s.devFault = false) {m : Byte} (hm : 32 ≤ m.toNat) :
    exec (.setMode m) s = .next { s with response := some { result := .invalidOperand, outs := .none } } := by
  have hillegal : ¬ modeInLegal m = true := by
    rw [modeInLegal_iff]
    omega
  change Host.Outcome.next _ = _
  rw [if_neg (by simp [hfault]), if_pos hillegal]
  rfl

/-- With a legal byte SET_MODE enters its mode and reports the change. -/
theorem exec_setMode_of_legal {s : State} (hfault : s.devFault = false) {m : Byte} (hm : m.toNat < 32) :
    exec (.setMode m) s = .next ((s.emitIfChanged (s.enterMode (modeOfByte m))).respond .ok .none) := by
  change Host.Outcome.next _ = _
  rw [if_neg (by simp [hfault]), if_neg (not_not.mpr ((modeInLegal_iff m).mpr hm))]

/-- Settles O33: two refusals, and the mode entered bit by bit. -/
theorem setModeCompletes : Obligations.SetModeCompletes := by
  unfold Obligations.SetModeCompletes
  refine fun m s => ⟨fun hfault => exec_setMode_of_fault hfault m, fun hfault hm => exec_setMode_of_reserved hfault hm,
    fun hfault hm => ?_⟩
  refine ⟨_, exec_setMode_of_legal hfault hm, ?_⟩
  refine (State.emitIfChanged_respond s _ _ _).trans ?_
  simp only [State.enterMode_modeOfByte]
  rfl

/-! ### READ_STATUS (44_block_control.md R284; 10_state.md R26) -/

/-- The status word as a number: the flags at bits 8:0, the class at 10:9, the fault at 11. -/
theorem statusWord_toNat (s : State) : s.statusWord.toNat =
    s.status.initialized.toNat + 2 * s.status.msgWaiting.toNat + 4 * s.status.busOn.toNat
      + 8 * s.status.txBusy.toNat + 16 * s.status.errWarning.toNat + 32 * s.status.dataOverrun.toNat
      + 64 * s.status.errPassive.toNat + 128 * s.status.arbLost.toNat + 256 * s.status.busError.toNat
      + 512 * (classCode s.busClass).toNat + 2048 * s.devFault.toNat := by
  simp only [State.statusWord, toNat_append_eq_mul_add, BitVec.toNat_ofBool]
  omega

/-- The mode byte as a number: RM, LOM, STM and SM at the bits 0, 1, 2 and 4. -/
theorem modeByte_toNat (m : ModeView) : (modeByte m).toNat =
    (if m.op = .reset then 1 else 0) + 2 * m.lom.toNat + 4 * m.stm.toNat + 16 * m.sm.toNat := by
  have hrm : (m.op == .reset).toNat = if m.op = .reset then 1 else 0 := by
    cases m.op <;> rfl
  simp only [modeByte, toNat_append_eq_mul_add, BitVec.toNat_ofBool, BitVec.toNat_ofNat, hrm]
  omega

/-- Settles O34, with the number of each class. -/
theorem readStatusCompletes : Obligations.ReadStatusCompletes := by
  unfold Obligations.ReadStatusCompletes
  intro s
  refine ⟨s.statusWord, modeByte s.mode, rfl, ?_, modeByte_toNat s.mode⟩
  rw [statusWord_toNat]
  cases s.busClass <;> rfl

/-! ### RESET (44_block_control.md R286; 70_reset_and_hazards.md R340) -/

/-- With no input the machine waits. -/
theorem step_of_no_inputs {s : State} (h : s.inputs = []) : step s = .next s := by
  simp only [step, fetch, h]

/-- Settles O35: construction and RESET set the same fields, and nothing is lined up at construction. -/
theorem resetCompletes : Obligations.ResetCompletes := by
  unfold Obligations.ResetCompletes
  exact ⟨rfl, rfl, rfl, rfl, rfl, rfl, rfl, step_of_no_inputs rfl, fun s => rfl⟩

end Sys2Proof.Machine
end

section
/-! Refusals, results and the interrupt line (60_exceptions.md): what an instruction can answer (R301), what the device
fault refuses and what still runs (R303), and the platform's look (R310). -/

namespace Sys2Proof.Machine

/-! ### What an instruction can answer (60_exceptions.md R301) -/

/-- The three ways an instruction from `s` answers: refused before its first access, by DEVICE_NOT_RESPONDING only where
the fault is set; with OK; or through the exception of 00_scope.md R16, which only sets a fault that was clear. -/
inductive AnswersFrom (s : State) : State → Prop
  | refused (r : Result) (h : r = .deviceNotResponding → s.devFault = true) : AnswersFrom s (s.respond r .none)
  | completed (t : State) (o : Outputs) : AnswersFrom s (t.respond .ok o)
  | lost (h : s.devFault = false) (u : State) : AnswersFrom s (s.deviceNotResponding u)

/-- A refusal by another code needs no fault. -/
theorem answersFrom_refusal (s : State) {r : Result} (h : r ≠ .deviceNotResponding) :
    AnswersFrom s (s.respond r .none) := .refused r fun hr => absurd hr h

/-- The first check of the seven operations that access the window (60_exceptions.md R303). -/
theorem answersFrom_unless_fault {s t : State} (h : s.devFault = false → AnswersFrom s t) :
    AnswersFrom s (if s.devFault then s.respond .deviceNotResponding .none else t) := by
  split
  case isTrue hfault => exact .refused _ fun _ => hfault
  case isFalse hfault => exact h (Bool.eq_false_iff.mpr hfault)

/-- An operation that accesses the window and ends with OK where every access was answered. -/
theorem conclude_answersFrom {α : Type} {s : State} (hfault : s.devFault = false) (a : Access α)
    (last : α → State → State) (o : α → Outputs) :
    AnswersFrom s (a.conclude s fun v u => (last v u).respond .ok (o v)) := by
  cases a with
  | going v u => exact .completed _ _
  | lost u => exact .lost hfault u

/-- TRANSMIT and TRANSMIT_SS report the fault before any other check (41_transmit.md R170). -/
theorem txCheck_of_fault {s : State} (h : s.devFault = true) (f : Frame) : s.txCheck f = some .deviceNotResponding :=
  if_pos h

/-- No other check reports DEVICE_NOT_RESPONDING. -/
theorem devFault_of_txCheck {s : State} {f : Frame} (h : s.txCheck f = some .deviceNotResponding) :
    s.devFault = true := by
  unfold State.txCheck at h
  split at h
  case isTrue hfault => exact hfault
  case isFalse =>
    repeat' split at h
    all_goals cases h

theorem transmitWith_answersFrom (command : Byte) (f : Frame) (s : State) :
    AnswersFrom s (s.transmitWith command f) := by
  unfold State.transmitWith
  split
  case h_1 r hcheck => exact .refused r fun hr => devFault_of_txCheck (hr ▸ hcheck)
  case h_2 hcheck =>
    have hfault : s.devFault = false := by
      cases hset : s.devFault with
      | false => rfl
      | true => cases hcheck.symm.trans (txCheck_of_fault hset f)
    exact conclude_answersFrom hfault _ _ fun _ => .none

/-- The seven command bytes are no operations and answer nothing; every other instruction answers. -/
theorem exec_answersFrom {i : Instr}
    (hi : i ∉ [Instr.cmrTr, .cmrSrr, .cmrTrAt, .cmrSrrAt, .cmrAt, .cmrRrb, .cmrCdo]) {s t : State}
    (hexec : exec i s = .next t) : AnswersFrom s t := by
  cases i <;> injection hexec with hexec <;> subst hexec
  case transmit f => exact transmitWith_answersFrom _ f s
  case transmitSs f => exact transmitWith_answersFrom _ f s
  case abort =>
    refine answersFrom_unless_fault fun hfault => ?_
    split
    · exact .completed s .none
    · exact conclude_answersFrom hfault _ (fun _ u => u.deselect) fun _ => .none
  case tryReceive =>
    refine answersFrom_unless_fault fun hfault => ?_
    split
    · exact answersFrom_refusal s (by decide)
    · exact conclude_answersFrom hfault _ _ Outputs.frame
  case handleInterrupt => exact answersFrom_unless_fault fun hfault => conclude_answersFrom hfault _ _ fun _ => .none
  case txReadback k =>
    refine answersFrom_unless_fault fun hfault => ?_
    split
    · exact answersFrom_refusal s (by decide)
    · exact conclude_answersFrom hfault _ (fun _ u => u.deselect) Outputs.byte
  case setMode m =>
    refine answersFrom_unless_fault fun _ => ?_
    split
    · exact answersFrom_refusal s (by decide)
    · exact .completed _ _
  case encode f =>
    split
    · exact .completed s _
    · exact answersFrom_refusal s (by decide)
  case ackEvents | readStatus | reset | decode | decodeEcc | decodeAlc | classify | bufSff | bufEff =>
    exact .completed _ _
  case cmrTr | cmrSrr | cmrTrAt | cmrSrrAt | cmrAt | cmrRrb | cmrCdo => exact absurd hi (by simp)

/-- Settles O39: a refusal changes the response alone, OK records what it will, and the exception logs its lost access
(`exec_exits`). -/
theorem refusalsLeaveNoTrace : Obligations.RefusalsLeaveNoTrace := by
  unfold Obligations.RefusalsLeaveNoTrace
  intro i s hi
  obtain ⟨t, hexec, seg, hlog, -, honly⟩ := exec_exits i s
  cases exec_answersFrom hi hexec with
  | refused r hr => exact ⟨_, _, seg, hexec, rfl, hlog, fun _ _ => rfl, fun h => .inl ⟨hr h, rfl⟩⟩
  | completed u o => exact ⟨_, _, seg, hexec, rfl, hlog, fun h => absurd rfl h, fun h => by cases h⟩
  | lost hfault u =>
    have hset : (s.deviceNotResponding u).devFault = true := by rw [State.deviceNotResponding_eq]
    exact ⟨_, _, seg, hexec, rfl, hlog, fun _ h => absurd rfl h, fun _ => .inr ⟨hset, honly hfault hset⟩⟩

/-! ### The device fault (60_exceptions.md R303) -/

/-- The operations that access the window, SET_MODE among them. -/
def NeedsDevice (i : Instr) : Prop :=
  (∃ f, i = .transmit f ∨ i = .transmitSs f) ∨ i = .abort ∨ i = .tryReceive ∨ i = .handleInterrupt ∨
    (∃ k, i = .txReadback k) ∨ (∃ m, i = .setMode m)

theorem exec_handleInterrupt_of_fault {s : State} (hfault : s.devFault = true) :
    exec .handleInterrupt s = .next { s with response := some { result := .deviceNotResponding, outs := .none } } :=
  congrArg Host.Outcome.next (if_pos hfault)

theorem exec_of_fault {i : Instr} (hi : NeedsDevice i) {s : State} (hfault : s.devFault = true) :
    exec i s = .next { s with response := some { result := .deviceNotResponding, outs := .none } } := by
  obtain ⟨f, hi⟩ | rfl | rfl | rfl | ⟨k, rfl⟩ | ⟨m, rfl⟩ := hi
  · exact exec_transmission_of_refused hi (txCheck_of_fault hfault f)
  · exact exec_single_access_of_fault hfault (.inl rfl)
  · exact exec_tryReceive_of_fault hfault
  · exact exec_handleInterrupt_of_fault hfault
  · exact exec_single_access_of_fault hfault (.inr ⟨k, rfl⟩)
  · exact exec_setMode_of_fault hfault m

/-- ENCODE answers OK or INVALID_FRAME. -/
theorem exec_encode_result (f : Frame) (s : State) :
    ∃ t r, exec (.encode f) s = .next t ∧ t.response = some r ∧ r.result ≠ .deviceNotResponding := by
  by_cases hwf : frameWf f = true
  · exact ⟨_, _, congrArg Host.Outcome.next (if_pos hwf), rfl, nofun⟩
  · exact ⟨_, _, congrArg Host.Outcome.next (if_neg hwf), rfl, nofun⟩

/-- Every instruction but RESET keeps the fault (10_state.md R30). -/
theorem exec_keeps_fault {i : Instr} (hi : i ≠ .reset) {s t : State} (hexec : exec i s = .next t)
    (hfault : s.devFault = true) : t.devFault = true :=
  (moves_of_exec hexec).lift (R := fun s t => s.devFault = true → t.devFault = true) (fun _ => id)
    (fun _ _ _ f g => g ∘ f) (fun _ _ hm => hm.keeps_fault hi) hfault

theorem exec_clears_fault_iff {i : Instr} {s t : State} (hexec : exec i s = .next t) (hfault : s.devFault = true) :
    t.devFault = false ↔ i = .reset := by
  constructor
  · intro hclear
    by_contra hi
    rw [exec_keeps_fault hi hexec hfault] at hclear
    cases hclear
  · rintro rfl
    injection hexec with hexec
    subst hexec
    rfl

/-- Settles O36: the seven refusals (`exec_of_fault`), the results of the others, and the one way back. -/
theorem deviceFaultRefusesAccess : Obligations.DeviceFaultRefusesAccess := by
  unfold Obligations.DeviceFaultRefusesAccess
  refine fun s i hfault => ⟨fun hi => exec_of_fault hi hfault, fun hi => ?_, ?_⟩
  · obtain ⟨f, rfl⟩ | ⟨img, rfl⟩ | ⟨b, rfl | rfl⟩ | ⟨sr, ewlr, rxerr, txerr, rfl⟩ | rfl | rfl | rfl := hi
    · exact exec_encode_result f s
    all_goals exact ⟨_, _, rfl, rfl, nofun⟩
  · obtain ⟨t, hexec, -⟩ := exec_moves i s
    exact ⟨t, hexec, exec_clears_fault_iff hexec hfault⟩

/-! ### The platform's look at the interrupt line (60_exceptions.md R310; log 25) -/

/-- The line is asserted exactly while some bit is set in both IR and IER. -/
theorem Controller.interruptLine_iff (c : Controller) : c.interruptLine = true ↔
    ∃ j < 8, (c.cell 0 3).getLsbD j = true ∧ (c.cell 0 4).getLsbD j = true := by
  rw [Controller.interruptLine, bne_iff_ne, ne_eq, BitVec.eq_of_getLsbD_eq_iff]
  simp

theorem fetch_platform {s : State} {rest : List Input} (h : s.inputs = .platform :: rest) :
    fetch s = fetchPlatform (s.withInputs rest) := by
  simp only [fetch, h]

theorem step_platform_of_asserted {s : State} {rest : List Input} (h : s.inputs = .platform :: rest)
    (hline : s.controller.interruptLine = true) : step s = exec .handleInterrupt { s with inputs := rest } :=
  step_of_fetch_run ((fetch_platform h).trans (if_pos hline))

theorem step_platform_of_quiet {s : State} {rest : List Input} (h : s.inputs = .platform :: rest)
    (hline : ¬ s.controller.interruptLine = true) : step s = .next { s with inputs := rest } := by
  have hfetch : fetch s = .quiet (s.withInputs rest) := (fetch_platform h).trans (if_neg hline)
  rw [step, hfetch]
  rfl

/-- Settles O48: the look runs HANDLE_INTERRUPT or nothing, as the line says (`interruptLine_iff`). -/
theorem platformDeliversPendingInterrupts : Obligations.PlatformDeliversPendingInterrupts := by
  unfold Obligations.PlatformDeliversPendingInterrupts
  refine fun s rest h => ⟨fun hpending => ?_, fun hnone => ?_⟩
  · exact step_platform_of_asserted h (s.controller.interruptLine_iff.mpr hpending)
  · refine step_platform_of_quiet h fun hline => ?_
    obtain ⟨j, hj, hbits⟩ := s.controller.interruptLine_iff.mp hline
    exact hnone j hj hbits

end Sys2Proof.Machine
end
